-- ==== Sys2Proof/Word.lean ====
section
/-! DEFINITION. The word types of the mini-Wave_Gen core. -/

namespace Sys2Proof

/-- A program word: ten hexadecimal digits, an IN38 input bundle under two zero bits (R80, R87). -/
abbrev Word := BitVec 40

/-- A sample code: one 12-bit entry of the sample buffer (R60). -/
abbrev Code := BitVec 12

end Sys2Proof
end

