-- ==== Sys2Proof/Config.lean ====
section
/-! DEFINITION. The build-time parameters (R7 to R9) and the one free value of the model. -/

namespace Sys2Proof.Config

/-- The build-time parameters of R7. Voltages are in units of 100 uV (R14). -/
structure Build where
  /-- P_VREF_U, the reference voltage. -/
  vrefU : Nat
  /-- P_GMAX_HZ, the global maximum frequency in Hz. -/
  gmaxHz : Nat
  /-- P_TC_NUM, the numerator of the timing compensation. -/
  tcNum : Nat
  /-- P_TC_DEN, the denominator of the timing compensation. -/
  tcDen : Nat
  /-- P_INIT_KIND, a kind code of R77. -/
  initKind : BitVec 2
  /-- P_INIT_FREQ in Hz. -/
  initFreq : Nat
  /-- P_INIT_AMP. -/
  initAmp : Nat
  /-- P_INIT_OFFS. -/
  initOffs : Nat
  /-- P_INIT_SC. -/
  initSc : Nat
  deriving DecidableEq, Repr

/-- The legal ranges of R7; the bound on the initial frequency is fmax of R125. -/
def Build.valid (b : Build) : Bool :=
  decide (1 ≤ b.vrefU ∧ b.vrefU ≤ 300000) &&
  decide (8 ≤ b.gmaxHz ∧ b.gmaxHz ≤ 32000) &&
  decide (1 ≤ b.tcNum ∧ b.tcNum < b.tcDen ∧ b.tcDen ≤ 65536) &&
  decide (b.initSc = 16 ∨ b.initSc = 32 ∨ b.initSc = 64 ∨ b.initSc = 128) &&
  decide (1 ≤ b.initFreq ∧ b.initFreq ≤ b.gmaxHz / (b.initSc / 16)) &&
  decide (b.initAmp ≤ b.vrefU) &&
  decide (b.initOffs ≤ b.vrefU)

/-- A parameter set that is a configuration of this hardware (R8). No other one can be held by a state. -/
abbrev ValidBuild := { b : Build // b.valid = true }

/-- The test configuration TCFG of R9. The spec chose it for testing; it is no claim about the hardware. -/
def tcfg : ValidBuild :=
  ⟨{ vrefU := 50000, gmaxHz := 568, tcNum := 15, tcDen := 16, initKind := 0#2, initFreq := 50,
     initAmp := 49750, initOffs := 24875, initSc := 32 }, by decide⟩

/-- FREE VALUE (DESIGN CHOICE, log entry 6). `rnd(n, d)` at a divisor d that is not positive: R12 defines it for
d > 0 only, and R144 says that a frequency that is not positive "must never reach this function". -/
opaque intervalAtBadDivisor (n d : Int) : BitVec 32

end Sys2Proof.Config
end

