-- ==== Sys2Proof/Syntax.lean ====
section
/-! DEFINITION. The operations of the block, one constructor per row of spec/opcode_table.json; their selector words
(R80); and the stimulus syntax of R87 and R88. -/

namespace Sys2Proof

/-- The operations of the block. An operand is a bit of the row's selector word that the row leaves open (R80);
`ignored` holds the low bits of the input bundle that the cycle does not read (R80, R221). -/
inductive Instr where
  /-- CYC_RESET, CTL4 1xxx (R220). -/
  | cycReset (ignored : BitVec 37)
  /-- CYC_ITERATE, CTL4 01xx, with the two presses of the same cycle and the ports an iteration reads (R176). -/
  | cycIterate (modeEv fieldEv encClk encData : Bool) (nowUs : BitVec 32)
  /-- CYC_MODE_PRESS, CTL4 0x1x without an iteration, with the field press of the same cycle (R171). -/
  | cycModePress (fieldEv : Bool) (ignored : BitVec 34)
  /-- CYC_FIELD_PRESS, CTL4 0xx1 with neither an iteration nor a mode press (R172). -/
  | cycFieldPress (ignored : BitVec 34)
  /-- CYC_IDLE, CTL4 0000 (R175). -/
  | cycIdle (ignored : BitVec 34)
  /-- ITER_RUNNING, MODE2 00 (R179). -/
  | iterRunning
  /-- ITER_CONFIGURING, MODE2 01 (R180). -/
  | iterConfiguring
  /-- ITER_CALCULATING, MODE2 10 (R185). -/
  | iterCalculating
  /-- ITER_INVALID, MODE2 11 (R187). -/
  | iterInvalid
  /-- QD_STEP_PLUS, QDIN3 101 (R102). -/
  | qdStepPlus
  /-- QD_STEP_MINUS, QDIN3 100 (R103). -/
  | qdStepMinus
  /-- QD_NO_EDGE_PREV_LOW, QDIN3 0xx (R104). -/
  | qdNoEdgePrevLow (encClk encData : Bool)
  /-- QD_NO_EDGE_CLK_HIGH, QDIN3 11x (R104). -/
  | qdNoEdgeClkHigh (encData : Bool)
  /-- EDIT_KIND, CURSOR4 0 (R112). -/
  | editKind
  /-- EDIT_FREQ_TENS, CURSOR4 1 (R113). -/
  | editFreqTens
  /-- EDIT_FREQ_UNITS, CURSOR4 2 (R114). -/
  | editFreqUnits
  /-- EDIT_AMP_WHOLE, CURSOR4 3 (R115). -/
  | editAmpWhole
  /-- EDIT_AMP_TENTHS, CURSOR4 4 (R116). -/
  | editAmpTenths
  /-- EDIT_AMP_HUNDREDTHS, CURSOR4 5 (R117). -/
  | editAmpHundredths
  /-- EDIT_OFFS_WHOLE, CURSOR4 6 (R118). -/
  | editOffsWhole
  /-- EDIT_OFFS_TENTHS, CURSOR4 7 (R119). -/
  | editOffsTenths
  /-- EDIT_OFFS_HUNDREDTHS, CURSOR4 8 (R120). -/
  | editOffsHundredths
  /-- EDIT_SC, CURSOR4 9 (R121). -/
  | editSc
  /-- GEN_SINE, KIND2 00 (R137). -/
  | genSine
  /-- GEN_RAMP, KIND2 01 (R139). -/
  | genRamp
  /-- GEN_SQUARE, KIND2 10 (R140). -/
  | genSquare
  /-- GEN_DC, KIND2 11 (R141). -/
  | genDc
  /-- SATURATE, SUB (R124). -/
  | saturate
  /-- DC_REDIRECT, SUB (R123). -/
  | dcRedirect
  /-- INTERVAL, SUB (R144). -/
  | interval
  /-- SCHED_POLL, SUB (R160). -/
  | schedPoll
  deriving DecidableEq, Repr

/-- The operations of format SUB: they have no selector bits, their parent operation names them (R80, R83). -/
inductive SubOp where
  | saturate | dcRedirect | interval | schedPoll
  deriving DecidableEq, Repr

/-- The selector formats of R80. -/
inductive Format where
  | in38 | ctl4 | mode2 | qdin3 | cursor4 | kind2
  | sub (op : SubOp)
  deriving DecidableEq, Repr

/-- A selector word with its format (R80), right-justified. -/
structure Selector where
  fmt : Format
  word : Word
  deriving DecidableEq, Repr

/-- The decoder's step: -1, 0 or +1. The code `10` (-2) does not exist (R76, I16). -/
inductive Step where
  | minus | zero | plus
  deriving DecidableEq, Repr

/-- One item of a stimulus line (R87). -/
inductive Item where
  | iter (clk dat : Bool) (now : BitVec 32)
  | pressMode
  | pressField
  deriving DecidableEq, Repr

/-- A stimulus line, one cycle (R87). -/
inductive Line where
  | reset
  | idle
  | items (l : List Item)
  deriving DecidableEq, Repr

/-- The pseudo-instructions of R88. -/
inductive Pseudo where
  | wait (now : BitVec 32)
  | turnUp (now : BitVec 32)
  | turnDown (now : BitVec 32)
  deriving DecidableEq, Repr

end Sys2Proof
end

