-- ==== Sys2Proof/WellFormed.lean ====
section
/-! DEFINITION. Which operations and stimulus lines a program may hold (R80, R87). -/

namespace Sys2Proof

/-- R80: the fields of the input bundle that a cycle does not read are written as 0 in programs. Every other operand
is typed to the width of its field, so it has no ill-formed value. -/
def Instr.wf : Instr → Bool
  | .cycReset ignored => ignored == 0#37
  | .cycModePress _ ignored => ignored == 0#34
  | .cycFieldPress ignored => ignored == 0#34
  | .cycIdle ignored => ignored == 0#34
  | .cycIterate _ _ _ _ _ => true
  | .iterRunning | .iterConfiguring | .iterCalculating | .iterInvalid => true
  | .qdStepPlus | .qdStepMinus | .qdNoEdgePrevLow _ _ | .qdNoEdgeClkHigh _ => true
  | .editKind | .editFreqTens | .editFreqUnits | .editAmpWhole | .editAmpTenths | .editAmpHundredths => true
  | .editOffsWhole | .editOffsTenths | .editOffsHundredths | .editSc => true
  | .genSine | .genRamp | .genSquare | .genDc => true
  | .saturate | .dcRedirect | .interval | .schedPoll => true

/-- Whether an item is an ITER item. -/
def Item.isIter : Item → Bool
  | .iter _ _ _ => true
  | .pressMode => false
  | .pressField => false

/-- R87: a line holds at least one item, and each item at most once. -/
def Line.wf : Line → Bool
  | .reset => true
  | .idle => true
  | .items l =>
    !l.isEmpty && decide ((l.filter Item.isIter).length ≤ 1) &&
      decide (l.count .pressMode ≤ 1) && decide (l.count .pressField ≤ 1)

end Sys2Proof
end

