-- ==== Sys2Proof/Decode.lean ====
section
/-! DEFINITION. The decoder of the selector words (R80, R82 to R85), the encoder, the assembler of the stimulus syntax
(R87, R88), and the words of the opcode table. -/

namespace Sys2Proof

/-- Why a selector word is rejected. -/
inductive DecodeError where
  /-- A bit is set above the format's width (R80); in a program word, bit 39 or 38 (R87). -/
  | bitsAboveWidth
  /-- A cursor code 10 to 15 (R85). -/
  | illegalCursor
  deriving DecidableEq, Repr

/-- The widths of R80. -/
def Format.width : Format → Nat
  | .in38 => 38
  | .ctl4 => 4
  | .mode2 => 2
  | .qdin3 => 3
  | .cursor4 => 4
  | .kind2 => 2
  | .sub _ => 0

/-- Bit n of a word as 0 or 1 moved to bit n: the field of one bit. -/
def bitAt (n : Nat) (b : Bool) : Word := if b then 1#40 <<< n else 0#40

/-- R80, R82, R84: the cycle operation of an input bundle. Reset first; then an iteration with its presses; then the
presses alone; then the idle cycle. All 16 control words are defined. -/
def decodeIn38 (w : Word) : Instr :=
  if w.getLsbD 37 then .cycReset (w.extractLsb' 0 37)
  else if w.getLsbD 36 then
    .cycIterate (w.getLsbD 35) (w.getLsbD 34) (w.getLsbD 33) (w.getLsbD 32) (w.extractLsb' 0 32)
  else if w.getLsbD 35 then .cycModePress (w.getLsbD 34) (w.extractLsb' 0 34)
  else if w.getLsbD 34 then .cycFieldPress (w.extractLsb' 0 34)
  else .cycIdle (w.extractLsb' 0 34)

/-- R83: the iteration operation of a mode code. -/
def decodeMode2 (w : Word) : Instr :=
  if w.getLsbD 1 then (if w.getLsbD 0 then .iterInvalid else .iterCalculating)
  else if w.getLsbD 0 then .iterConfiguring else .iterRunning

/-- R83: the decoder operation of (QD_PREV, ENC_CLK, ENC_DATA). -/
def decodeQdin3 (w : Word) : Instr :=
  if w.getLsbD 2 then
    if w.getLsbD 1 then .qdNoEdgeClkHigh (w.getLsbD 0)
    else if w.getLsbD 0 then .qdStepPlus else .qdStepMinus
  else .qdNoEdgePrevLow (w.getLsbD 1) (w.getLsbD 0)

/-- R83: the edit operation of a cursor; codes 10 to 15 are illegal (R85). -/
def decodeCursor4 (w : Word) : Except DecodeError Instr :=
  match w.toNat with
  | 0 => .ok .editKind
  | 1 => .ok .editFreqTens
  | 2 => .ok .editFreqUnits
  | 3 => .ok .editAmpWhole
  | 4 => .ok .editAmpTenths
  | 5 => .ok .editAmpHundredths
  | 6 => .ok .editOffsWhole
  | 7 => .ok .editOffsTenths
  | 8 => .ok .editOffsHundredths
  | 9 => .ok .editSc
  | _ => .error .illegalCursor

/-- R83: the generator operation of a kind code. -/
def decodeKind2 (w : Word) : Instr :=
  if w.getLsbD 1 then (if w.getLsbD 0 then .genDc else .genSquare)
  else if w.getLsbD 0 then .genRamp else .genSine

/-- R83: the sub-operation its parent names. -/
def decodeSub : SubOp → Instr
  | .saturate => .saturate
  | .dcRedirect => .dcRedirect
  | .interval => .interval
  | .schedPoll => .schedPoll

/-- The operation a selector word selects. Total: a word with a bit above its format's width and an illegal cursor are
rejected by name. -/
def decode (sel : Selector) : Except DecodeError Instr :=
  if sel.word.toNat < 2 ^ sel.fmt.width then
    match sel.fmt with
    | .in38 => .ok (decodeIn38 sel.word)
    | .ctl4 => .ok (decodeIn38 (sel.word <<< 34))
    | .mode2 => .ok (decodeMode2 sel.word)
    | .qdin3 => .ok (decodeQdin3 sel.word)
    | .cursor4 => decodeCursor4 sel.word
    | .kind2 => .ok (decodeKind2 sel.word)
    | .sub op => .ok (decodeSub op)
  else .error .bitsAboveWidth

/-- The cycle operation of a program word (R87). -/
def decodeProgramWord (w : Word) : Except DecodeError Instr := decode ⟨.in38, w⟩

/-- The selector word of an operation (R80 and the encodings of opcode_table.json). A cycle operation is written as its
whole input bundle. -/
def encode : Instr → Selector
  | .cycReset ignored => ⟨.in38, bitAt 37 true ||| ignored.setWidth 40⟩
  | .cycIterate m f c d now =>
    ⟨.in38, bitAt 36 true ||| bitAt 35 m ||| bitAt 34 f ||| bitAt 33 c ||| bitAt 32 d ||| now.setWidth 40⟩
  | .cycModePress f ignored => ⟨.in38, bitAt 35 true ||| bitAt 34 f ||| ignored.setWidth 40⟩
  | .cycFieldPress ignored => ⟨.in38, bitAt 34 true ||| ignored.setWidth 40⟩
  | .cycIdle ignored => ⟨.in38, ignored.setWidth 40⟩
  | .iterRunning => ⟨.mode2, 0#40⟩
  | .iterConfiguring => ⟨.mode2, 1#40⟩
  | .iterCalculating => ⟨.mode2, 2#40⟩
  | .iterInvalid => ⟨.mode2, 3#40⟩
  | .qdStepPlus => ⟨.qdin3, 5#40⟩
  | .qdStepMinus => ⟨.qdin3, 4#40⟩
  | .qdNoEdgePrevLow c d => ⟨.qdin3, bitAt 1 c ||| bitAt 0 d⟩
  | .qdNoEdgeClkHigh d => ⟨.qdin3, 6#40 ||| bitAt 0 d⟩
  | .editKind => ⟨.cursor4, 0#40⟩
  | .editFreqTens => ⟨.cursor4, 1#40⟩
  | .editFreqUnits => ⟨.cursor4, 2#40⟩
  | .editAmpWhole => ⟨.cursor4, 3#40⟩
  | .editAmpTenths => ⟨.cursor4, 4#40⟩
  | .editAmpHundredths => ⟨.cursor4, 5#40⟩
  | .editOffsWhole => ⟨.cursor4, 6#40⟩
  | .editOffsTenths => ⟨.cursor4, 7#40⟩
  | .editOffsHundredths => ⟨.cursor4, 8#40⟩
  | .editSc => ⟨.cursor4, 9#40⟩
  | .genSine => ⟨.kind2, 0#40⟩
  | .genRamp => ⟨.kind2, 1#40⟩
  | .genSquare => ⟨.kind2, 2#40⟩
  | .genDc => ⟨.kind2, 3#40⟩
  | .saturate => ⟨.sub .saturate, 0#40⟩
  | .dcRedirect => ⟨.sub .dcRedirect, 0#40⟩
  | .interval => ⟨.sub .interval, 0#40⟩
  | .schedPoll => ⟨.sub .schedPoll, 0#40⟩

/-- The two-bit code of a step on the QD_STEP port (R76). -/
def Step.code : Step → BitVec 2
  | .zero => 0b00#2
  | .plus => 0b01#2
  | .minus => 0b11#2

/-- The integer a step stands for (R76). -/
def Step.toInt : Step → Int
  | .zero => 0
  | .plus => 1
  | .minus => -1

/-- The bits an item sets in the line's IN38 word (R87). -/
def Item.bits : Item → Word
  | .iter c d now => bitAt 36 true ||| bitAt 33 c ||| bitAt 32 d ||| now.setWidth 40
  | .pressMode => bitAt 35 true
  | .pressField => bitAt 34 true

/-- The program word of a line (R87); an ill-formed line has none. -/
def Line.assemble (l : Line) : Option Word :=
  if l.wf then
    some (match l with
      | .reset => bitAt 37 true
      | .idle => 0#40
      | .items is => (is.map Item.bits).foldl (· ||| ·) 0#40)
  else none

/-- The expansions of R88. -/
def Pseudo.expand : Pseudo → List Line
  | .wait t => [.items [.iter true true t]]
  | .turnUp t => [.items [.iter true true t], .items [.iter false true t]]
  | .turnDown t => [.items [.iter true false t], .items [.iter false false t]]

/-- The program word that carries an opcode-table word of nbits bits. A whole input bundle (40 bits) is its own word; a
shorter word is read as the control word CTL4 of a cycle, the format that is decoded first (R84), with every other input
0 (log entry 10). A word that is no CTL4 word gives a word the decoder rejects. -/
def tableProgramWord (nbits w : Nat) : Word :=
  if nbits = 40 then (if w < 2 ^ 38 then BitVec.ofNat 40 w else BitVec.allOnes 40)
  else if w < 16 then BitVec.ofNat 40 w <<< 34 else BitVec.allOnes 40

/-- The operation the decoder reads from an opcode-table word, none where it rejects the word. -/
def decodeTableWord (nbits w : Nat) : Option Instr :=
  match decodeProgramWord (tableProgramWord nbits w) with
  | .ok i => some i
  | .error _ => none

end Sys2Proof
end

