-- ==== Sys2Proof/Machine/Memory.lean ====
section
/-! DEFINITION. The sample buffer BUF (R60): the whole index space 0 to 127 (R69), as the list of its entries that are
not 0 (what an unlisted entry reads as: R62, the reset contents). -/

namespace Sys2Proof.Machine

/-- The buffer: (index, code) pairs, indices rising, no code 0. -/
abbrev Memory := List (Nat × Code)

/-- What an entry that is not listed reads as: its reset value (R62). -/
def Memory.unlisted : Code := 0#12

/-- The canonical form from index lo on: indices rising and below 128 (R60), no listed entry equal to an unlisted one. -/
def Memory.wfFrom : Nat → Memory → Bool
  | _, [] => true
  | lo, (b, w) :: m => decide (lo ≤ b) && decide (b < 128) && w != Memory.unlisted && Memory.wfFrom (b + 1) m

/-- The canonical form. -/
def Memory.wf (m : Memory) : Bool := Memory.wfFrom 0 m

/-- BufRead of R12: one whole entry (R61). -/
def Memory.read : Memory → Nat → Code
  | [], _ => Memory.unlisted
  | (b, w) :: m, a => if a = b then w else Memory.read m a

/-- BufWrite of R12: one whole entry (R61); the canonical form is kept. -/
def Memory.write : Memory → Nat → Code → Memory
  | [], a, v => if v = Memory.unlisted then [] else [(a, v)]
  | (b, w) :: m, a, v =>
    if a < b then (if v = Memory.unlisted then (b, w) :: m else (a, v) :: (b, w) :: m)
    else if a = b then (if v = Memory.unlisted then m else (a, v) :: m)
    else (b, w) :: Memory.write m a v

/-- Entries 0 to n - 1 written with f (R63). -/
def Memory.writeTable (f : Nat → Code) : Nat → Memory → Memory
  | 0, m => m
  | n + 1, m => Memory.write (Memory.writeTable f n m) n (f n)

end Sys2Proof.Machine
end

