-- ==== Sys2Proof/Machine/State.lean ====
section
/-! DEFINITION. The state of the block: every register, the buffer, the output strobes, the build parameters it was made
with and the input bundles still to come; its reset; and the reasons a step can stop. -/

namespace Sys2Proof.Machine

/-- The registers R11 bounds by a width that a write of the field editor could leave. -/
inductive RegName where
  | freq | amp | offs
  deriving DecidableEq, Repr

/-- The model faults of R205. The hardware raises none of them (R200), and none is reachable from reset. -/
inductive Fault where
  /-- Raised by the sample-count edit, the saturation pass, the generator, the interval conversion and the scheduler
  when they read a sample count outside SC_SET (R28, R205). Safe: the spec calls the behaviour undefined. -/
  | illegalSampleCount
  /-- Raised by an edit or a redirect of a cursor 10 to 15 (R85, R205). Safe: the spec names this stop. -/
  | illegalCursor
  /-- Raised by a write to a register of a value outside its width (R11, R205). Safe: the spec names this stop. -/
  | rangeOverflow (r : RegName)
  deriving DecidableEq, Repr

/-- Why the model gives no meaning. -/
inductive Refusal where
  /-- Raised by exec's arm of an operation without a meaning. Safe. No arm raises it. -/
  | notModelled (mnemonic : String)
  /-- Raised at construction, for a parameter set outside the ranges of R7 (R8). Safe. -/
  | illegalParameters
  /-- Raised by a step when no input bundle is left: R191 does not say what the block does then. Safe. -/
  | noInputBundle
  /-- Raised by a step whose program word is no input bundle (R80, R87). Safe. -/
  | undecodable (e : DecodeError)
  deriving DecidableEq, Repr

/-- The state. Register names are those of 10_state.md. -/
structure State where
  /-- The build-time parameters (R7), the same in every cycle. -/
  build : Config.ValidBuild
  /-- MODE (R21). -/
  mode : BitVec 2
  /-- FIELD_CNT (R22). -/
  fieldCnt : BitVec 4
  /-- EDIT_CURSOR (R23). -/
  editCursor : BitVec 4
  /-- KIND (R24). -/
  kind : BitVec 2
  /-- FREQ, signed (R25). -/
  freq : BitVec 16
  /-- AMP, signed (R26). -/
  amp : BitVec 32
  /-- OFFS, signed (R27). -/
  offs : BitVec 32
  /-- SC (R28). -/
  sc : BitVec 8
  /-- QD_PREV (R30). -/
  qdPrev : Bool
  /-- INTERVAL (R31). -/
  interval : BitVec 32
  /-- RUN_SC (R32). -/
  runSc : BitVec 8
  /-- IDX (R33). -/
  idx : BitVec 8
  /-- LAST_T (R34). -/
  lastT : BitVec 32
  /-- LAST_DISP_T (R35). -/
  lastDispT : BitVec 32
  /-- CFG_PREV (R36). -/
  cfgPrev : Bool
  /-- STARTED (R37). -/
  started : Bool
  /-- DAC_CODE (R38). -/
  dacCode : Code
  /-- BUF (R60). -/
  buf : Memory
  /-- Output strobe DAC_WE of the cycle (R43). -/
  dacWe : Bool
  /-- Output strobe DISP_FULL of the cycle (R44). -/
  dispFull : Bool
  /-- Output strobe DISP_VALUES of the cycle (R44). -/
  dispValues : Bool
  /-- Output QD_STEP of the cycle (R45); its two-bit code is `Step.code` (R76). -/
  qdStep : Step
  /-- The model's own: the NOW_US port as the iteration in progress sampled it (R40; log entry 5). -/
  nowUs : BitVec 32
  /-- The model's own: the input bundles to come, one program word a cycle (R191; log entry 1). -/
  stimulus : List Word
  deriving DecidableEq, Repr

/-- The three outcomes of a step of this machine. -/
abbrev Result := Host.Outcome State Fault Refusal

/-- The reset values of R48 and R62 and the outputs of a reset cycle (R220), for the parameter set b. -/
def State.resetWith (b : Config.ValidBuild) : State :=
  { build := b
    mode := 2#2
    fieldCnt := 0#4
    editCursor := 0#4
    kind := b.val.initKind
    freq := BitVec.ofNat 16 b.val.initFreq
    amp := BitVec.ofNat 32 b.val.initAmp
    offs := BitVec.ofNat 32 b.val.initOffs
    sc := BitVec.ofNat 8 b.val.initSc
    qdPrev := false
    interval := 0#32
    runSc := 16#8
    idx := 0#8
    lastT := 0#32
    lastDispT := 0#32
    cfgPrev := false
    started := false
    dacCode := 0#12
    buf := []
    dacWe := false
    dispFull := false
    dispValues := false
    qdStep := .zero
    nowUs := 0#32
    stimulus := [] }

/-- The machine right after reset, with the test configuration TCFG as its parameter set (DESIGN CHOICE, log entry 2:
the spec leaves the parameters open). -/
def State.reset : State := State.resetWith Config.tcfg

end Sys2Proof.Machine
end

