-- ==== Sys2Proof/Machine/Numeric.lean ====
section
/-! DEFINITION. The arithmetic primitives of R12 on mathematical integers (R11, R147). -/

namespace Sys2Proof.Machine

/-- fdiv(a, b) of R12, for b > 0: the floor of a / b. -/
def fdiv (a b : Int) : Int := a / b

/-- rnd(n, d) of R12, for d > 0: the integer nearest to n / d, halves rounded up. -/
def rnd (n d : Int) : Int := fdiv (2 * n + d) (2 * d)

/-- clamp(x, lo, hi) of R12, for lo ≤ hi. -/
def clamp (x lo hi : Int) : Int := if x < lo then lo else if hi < x then hi else x

/-- Q(n, d) of R136: round, then saturate into [0, 4095]. -/
def quant (n d : Int) : Code := BitVec.ofInt 12 (clamp (rnd n d) 0 4095)

/-- Whether x is a value of a signed register of w bits (R11). -/
def fitsSigned (w : Nat) (x : Int) : Bool := decide (-(2 ^ (w - 1) : Int) ≤ x ∧ x < (2 ^ (w - 1) : Int))

/-- The elapsed time (now - t) mod 2^32 of R41. -/
def elapsed (now t : BitVec 32) : BitVec 32 := now - t

end Sys2Proof.Machine
end

