-- ==== Sys2Proof/Machine/Tables.lean ====
section
/-! DEFINITION. The fixed constants (R6), the read-only tables (R65) and the functions read from them. -/

namespace Sys2Proof.Machine

/-- CODE_RES of R6. -/
def codeRes : Int := 4096

/-- US_PER_S of R6. -/
def usPerS : Int := 1000000

/-- DISP_PERIOD_US of R6. -/
def dispPeriodUs : BitVec 32 := 500000#32

/-- P_DEFAULT_MODE of R10: Calculating. -/
def defaultMode : BitVec 2 := 2#2

/-- SC_SET of R6. -/
def legalSc (n : Nat) : Bool := n == 16 || n == 32 || n == 64 || n == 128

/-- MULT of R110, indexed by the cursor. -/
def mult : List Int := [1, 10, 1, 10000, 1000, 100, 10000, 1000, 100, 1]

/-- MULT[c] of R110. -/
def multAt (c : Nat) : Int := mult.getD c 0

/-- SIN_Q30 of R66. -/
def sinQ30 : List Int :=
  [0, 52686014, 105245103, 157550647, 209476638, 260897982, 311690799, 361732726] ++
  [410903207, 459083786, 506158392, 552013618, 596538995, 639627258, 681174602, 721080937] ++
  [759250125, 795590213, 830013654, 862437520, 892783698, 920979082, 946955747, 970651112] ++
  [992008094, 1010975242, 1027506862, 1041563127, 1053110176, 1062120190, 1068571464, 1072448455] ++
  [1073741824]

/-- SIN_Q30[k] of R66. -/
def sinAt (k : Nat) : Int := sinQ30.getD k 0

/-- SINF(i, N) of R138: the sine of sample i of N by quarter-wave symmetry. -/
def sinf (i n : Nat) : Int :=
  let j := i * (128 / n)
  if j ≤ 32 then sinAt j
  else if j ≤ 64 then sinAt (64 - j)
  else if j ≤ 96 then -sinAt (j - 64)
  else -sinAt (128 - j)

end Sys2Proof.Machine
end

