-- ==== Sys2Proof/Machine/Operands.lean ====
section
/-! DEFINITION. The operands of the operations: the parameter registers as integers (R11), the delta of an edit (R81),
the derived cursor (R181), the buffer index of a poll (R160), and the output ports (R43 to R45). -/

namespace Sys2Proof.Machine

/-- The parameters p = (KIND, FREQ, AMP, OFFS, SC) of 41_field_editor.md, as mathematical integers. -/
structure Params where
  kind : BitVec 2
  freq : Int
  amp : Int
  offs : Int
  sc : Nat
  deriving DecidableEq, Repr

/-- params(s) of R180 and R185. -/
def paramsOf (s : State) : Params :=
  { kind := s.kind, freq := s.freq.toInt, amp := s.amp.toInt, offs := s.offs.toInt, sc := s.sc.toNat }

/-- The delta step * MULT[c] of an edit of field c (R81). -/
def editDelta (c : Nat) (st : Step) : Int := st.toInt * multAt c

/-- fmax(sc) of R125. -/
def fmax (b : Config.ValidBuild) (sc : Nat) : Int := fdiv b.val.gmaxHz (fdiv sc 16)

/-- P_VREF_U as an integer. -/
def vref (b : Config.ValidBuild) : Int := b.val.vrefU

/-- redirect(kind, c) of R123. -/
def redirect (kind : BitVec 2) (c : BitVec 4) : BitVec 4 :=
  if kind = 3#2 ∧ c = 1#4 then 6#4 else c

/-- The field counter reduced into [0, 9], and what is written back (first part of R181). -/
def reduceCounter (fc : BitVec 4) : BitVec 4 × Option (BitVec 4) :=
  if 10#4 ≤ fc then (fc - 10#4, some (fc - 10#4)) else (fc, none)

/-- DeriveCursor of R181: the cursor, and what is written back to FIELD_CNT. -/
def deriveCursor (fc : BitVec 4) (kind : BitVec 2) : BitVec 4 × Option (BitVec 4) :=
  let (c, w) := reduceCounter fc
  let c2 := redirect kind c
  (c2, if c2 = c then w else some c2)

/-- The buffer index IDX & (RUN_SC - 1) of R160, 7 bits wide (R60). -/
def pollIndex (s : State) : BitVec 7 := (s.idx &&& (s.runSc - 1#8)).setWidth 7

/-- The output ports of a cycle (R43 to R45). -/
structure Ports where
  dacCode : Code
  dacWe : Bool
  dispFull : Bool
  dispValues : Bool
  qdStep : BitVec 2
  kind : BitVec 2
  freq : BitVec 16
  amp : BitVec 32
  offs : BitVec 32
  sc : BitVec 8
  editCursor : BitVec 4
  mode : BitVec 2
  deriving DecidableEq, Repr

/-- The ports at the end of a cycle: the strobes, and the registers that the value ports show (R44). -/
def portsOf (s : State) : Ports :=
  { dacCode := s.dacCode, dacWe := s.dacWe, dispFull := s.dispFull, dispValues := s.dispValues
    qdStep := s.qdStep.code, kind := s.kind, freq := s.freq, amp := s.amp, offs := s.offs, sc := s.sc
    editCursor := s.editCursor, mode := s.mode }

end Sys2Proof.Machine
end

