-- ==== Sys2Proof/Machine/Ops.lean ====
section
/-! DEFINITION. The shared operations over the registers and the buffer: sequencing, register commits (R11), buffer
access (R60), counter merge and presses (R173). The block takes no exception and returns from none (R200, R209, R210):
the presses, the source's interrupts, are counter increments. -/

namespace Sys2Proof.Machine

/-- Run k on the next state of r; a stop of r stays a stop (I18). -/
def andThen (r : Result) (k : State → Result) : Result :=
  match r with
  | .next s => k s
  | .fault f => .fault f
  | .refused f => .refused f

/-- Run k on the value of e; a model fault of e stops the machine (R12). -/
def orFault {α : Type} (e : Except Fault α) (k : α → Result) : Result :=
  match e with
  | .ok a => k a
  | .error f => .fault f

/-- The register writes of a parameter tuple, each checked against its width (R11). A sample count that gets here is in
SC_SET, or the one the register already holds. -/
def writeParams (p : Params) (s : State) : Result :=
  if fitsSigned 16 p.freq then
    if fitsSigned 32 p.amp then
      if fitsSigned 32 p.offs then
        .next { s with
          kind := p.kind
          freq := BitVec.ofInt 16 p.freq
          amp := BitVec.ofInt 32 p.amp
          offs := BitVec.ofInt 32 p.offs
          sc := BitVec.ofNat 8 p.sc }
      else .fault (.rangeOverflow .offs)
    else .fault (.rangeOverflow .amp)
  else .fault (.rangeOverflow .freq)

/-- BufRead(i) (R60, R64). -/
def bufRead (s : State) (i : BitVec 7) : Code := s.buf.read i.toNat

/-- BufWrite(i, f i) for every i below SC (R63, R135); a sample count outside SC_SET is a model fault (R205). -/
def fillBuf (f : Nat → Code) (s : State) : Result :=
  if legalSc s.sc.toNat then .next { s with buf := Memory.writeTable f s.sc.toNat s.buf }
  else .fault .illegalSampleCount

/-- Merge(cur, w, ev, m) of R173 on a counter of n bits (m = 2^n). -/
def merge {n : Nat} (cur : BitVec n) (w : Option (BitVec n)) (ev : Bool) : BitVec n :=
  w.getD cur + (if ev then 1#n else 0#n)

/-- The presses of a cycle, added to what the iteration wrote or left (R171 to R173). -/
def applyPresses (modeEv fieldEv : Bool) (s : State) : State :=
  { s with mode := merge s.mode none modeEv, fieldCnt := merge s.fieldCnt none fieldEv }

/-- Every output strobe of a cycle is 0 until the cycle emits it (R175, R176). -/
def clearStrobes (s : State) : State :=
  { s with dacWe := false, dispFull := false, dispValues := false, qdStep := .zero }

/-- A cycle without an iteration (R175): strobes 0, then the presses. -/
def pressOnly (modeEv fieldEv : Bool) (s : State) : State :=
  applyPresses modeEv fieldEv (clearStrobes s)

end Sys2Proof.Machine
end

