-- ==== Sys2Proof/Machine/FieldEditor.lean ====
section
/-! DEFINITION. The field editor and the saturation pass (41_field_editor.md). -/

namespace Sys2Proof.Machine

/-- The edit of field 0 (R112): the kind moves by the step modulo 4. -/
def editKindField (p : Params) (st : Step) : Params :=
  { p with kind := p.kind + BitVec.ofInt 2 st.toInt }

/-- The edit of a frequency field c (R113, R114). -/
def editFreqField (c : Nat) (p : Params) (st : Step) : Params := { p with freq := p.freq + editDelta c st }

/-- The edit of an amplitude field c (R115 to R117). -/
def editAmpField (c : Nat) (p : Params) (st : Step) : Params := { p with amp := p.amp + editDelta c st }

/-- The edit of an offset field c (R118 to R120). -/
def editOffsField (c : Nat) (p : Params) (st : Step) : Params := { p with offs := p.offs + editDelta c st }

/-- SCStep of R121 on a sample count. -/
def scStep (sc : Nat) : Step → Nat
  | .plus => min (2 * sc) 128
  | .minus => max (sc / 2) 16
  | .zero => sc

/-- The edit of field 9 (R121); a sample count outside SC_SET on entry is a model fault. -/
def editScField (p : Params) (st : Step) : Except Fault Params :=
  if legalSc p.sc then .ok { p with sc := scStep p.sc st } else .error .illegalSampleCount

/-- Edit(p, c, step) of R111: at most the one field that c selects changes; nothing is clamped here. -/
def edit (p : Params) (c : BitVec 4) (st : Step) : Except Fault Params :=
  match c.toNat with
  | 0 => .ok (editKindField p st)
  | 1 => .ok (editFreqField 1 p st)
  | 2 => .ok (editFreqField 2 p st)
  | 3 => .ok (editAmpField 3 p st)
  | 4 => .ok (editAmpField 4 p st)
  | 5 => .ok (editAmpField 5 p st)
  | 6 => .ok (editOffsField 6 p st)
  | 7 => .ok (editOffsField 7 p st)
  | 8 => .ok (editOffsField 8 p st)
  | 9 => editScField p st
  | _ => .error .illegalCursor

/-- SAT(p) of R124. A sample count that its clause does not bring into SC_SET is a model fault (R127, C7; log entry 7). -/
def sat (b : Config.ValidBuild) (p : Params) : Except Fault Params :=
  let sc := if p.sc < 16 then 16 else p.sc
  if legalSc sc then
    .ok { kind := p.kind
          freq := clamp p.freq 1 (fmax b sc)
          amp := clamp p.amp 0 (vref b)
          offs := clamp p.offs 0 (vref b)
          sc := sc }
  else .error .illegalSampleCount

/-- EDIT_KIND (R112). -/
def execEditKind (s : State) : Result := writeParams (editKindField (paramsOf s) s.qdStep) s

/-- EDIT_FREQ_TENS (R113). -/
def execEditFreqTens (s : State) : Result := writeParams (editFreqField 1 (paramsOf s) s.qdStep) s

/-- EDIT_FREQ_UNITS (R114). -/
def execEditFreqUnits (s : State) : Result := writeParams (editFreqField 2 (paramsOf s) s.qdStep) s

/-- EDIT_AMP_WHOLE (R115). -/
def execEditAmpWhole (s : State) : Result := writeParams (editAmpField 3 (paramsOf s) s.qdStep) s

/-- EDIT_AMP_TENTHS (R116). -/
def execEditAmpTenths (s : State) : Result := writeParams (editAmpField 4 (paramsOf s) s.qdStep) s

/-- EDIT_AMP_HUNDREDTHS (R117). -/
def execEditAmpHundredths (s : State) : Result := writeParams (editAmpField 5 (paramsOf s) s.qdStep) s

/-- EDIT_OFFS_WHOLE (R118). -/
def execEditOffsWhole (s : State) : Result := writeParams (editOffsField 6 (paramsOf s) s.qdStep) s

/-- EDIT_OFFS_TENTHS (R119). -/
def execEditOffsTenths (s : State) : Result := writeParams (editOffsField 7 (paramsOf s) s.qdStep) s

/-- EDIT_OFFS_HUNDREDTHS (R120). -/
def execEditOffsHundredths (s : State) : Result := writeParams (editOffsField 8 (paramsOf s) s.qdStep) s

/-- EDIT_SC (R121). -/
def execEditSc (s : State) : Result := orFault (editScField (paramsOf s) s.qdStep) fun p => writeParams p s

/-- SATURATE (R124). -/
def execSaturate (s : State) : Result := orFault (sat s.build (paramsOf s)) fun p => writeParams p s

/-- DC_REDIRECT (R123) on the derived cursor: a redirected cursor is written back to FIELD_CNT (R181). A cursor 10 to 15
is a model fault (R85). -/
def execDcRedirect (s : State) : Result :=
  if 10#4 ≤ s.editCursor then .fault .illegalCursor
  else
    let c2 := redirect s.kind s.editCursor
    .next { s with editCursor := c2, fieldCnt := if c2 = s.editCursor then s.fieldCnt else c2 }

end Sys2Proof.Machine
end

