-- ==== Sys2Proof/Machine/Flags.lean ====
section
/-! DEFINITION. The internal flag registers STARTED and CFG_PREV (R36, R37, R39) and the display strobes they decide
(R183, R189). -/

namespace Sys2Proof.Machine

/-- The flags every iteration writes, and DISP_FULL, from the state `start` at the start of the cycle (R176). In `s`,
which the mode operation left, DISP_FULL is the redraw asked for on entry to Configuring (R183). -/
def iterationFlags (start s : State) : State :=
  { s with
    started := true
    cfgPrev := decide (start.mode = 1#2)
    dispFull := !start.started || s.dispFull }

/-- ConfigDisplay of R183: a full redraw on entry to Configuring, a values refresh once DISP_PERIOD_US have passed. -/
def configDisplay (s : State) : State :=
  if s.cfgPrev = false then { s with dispFull := true, lastDispT := s.nowUs }
  else if dispPeriodUs ≤ elapsed s.nowUs s.lastDispT then { s with dispValues := true, lastDispT := s.nowUs }
  else s

end Sys2Proof.Machine
end

