-- ==== Sys2Proof/Machine/SampleScheduler.lean ====
section
/-! DEFINITION. The sample scheduler (43_sample_scheduler.md). -/

namespace Sys2Proof.Machine

/-- The emission of a poll (R160). -/
def emitSample (s : State) : State :=
  { s with dacCode := bufRead s (pollIndex s), dacWe := true, idx := s.idx + 1#8, lastT := s.nowUs }

/-- SCHED_POLL (R160). A RUN_SC outside SC_SET is a model fault whether or not the poll would emit (log entry 15). -/
def execSchedPoll (s : State) : Result :=
  if legalSc s.runSc.toNat then
    if s.interval ≤ elapsed s.nowUs s.lastT then .next (emitSample s) else .next { s with dacWe := false }
  else .fault .illegalSampleCount

end Sys2Proof.Machine
end

