-- ==== Sys2Proof/Machine/WaveformGenerator.lean ====
section
/-! DEFINITION. The waveform generator and the frequency-to-interval conversion (42_waveform_generator.md). -/

namespace Sys2Proof.Machine

/-- GEN_SINE's kernel (R137): v = P_VREF_U, a = AMP, o = OFFS, sample i of n. -/
def sineCode (v a o : Int) (n i : Nat) : Code :=
  quant (codeRes * (a * sinf i n + 2 ^ 31 * o)) (2 ^ 31 * v)

/-- GEN_RAMP's kernel (R139). -/
def rampCode (v a o : Int) (n i : Nat) : Code := quant (codeRes * (a * i + o * n)) (v * n)

/-- GEN_SQUARE's kernel (R140). -/
def squareCode (v a o : Int) (n i : Nat) : Code :=
  if i < n / 2 then quant (codeRes * (a + o)) v else quant (codeRes * o) v

/-- GEN_DC's kernel (R141); AMP is not read. -/
def dcCode (v o : Int) : Code := quant (codeRes * o) v

/-- Gen(kind, N, A, O, i) of R135: the code that generation stores at entry i. -/
def genCode (v : Int) (kind : BitVec 2) (a o : Int) (n i : Nat) : Code :=
  match kind.toNat with
  | 0 => sineCode v a o n i
  | 1 => rampCode v a o n i
  | 2 => squareCode v a o n i
  | _ => dcCode v o

/-- GEN_SINE (R135, R137). -/
def execGenSine (s : State) : Result :=
  fillBuf (sineCode (vref s.build) s.amp.toInt s.offs.toInt s.sc.toNat) s

/-- GEN_RAMP (R135, R139). -/
def execGenRamp (s : State) : Result :=
  fillBuf (rampCode (vref s.build) s.amp.toInt s.offs.toInt s.sc.toNat) s

/-- GEN_SQUARE (R135, R140). -/
def execGenSquare (s : State) : Result :=
  fillBuf (squareCode (vref s.build) s.amp.toInt s.offs.toInt s.sc.toNat) s

/-- GEN_DC (R135, R141). -/
def execGenDc (s : State) : Result := fillBuf (fun _ => dcCode (vref s.build) s.offs.toInt) s

/-- The generator of a Calculating iteration: the operation that KIND selects (R83, R135). -/
def runGenerator (s : State) : Result :=
  match s.kind.toNat with
  | 0 => execGenSine s
  | 1 => execGenRamp s
  | 2 => execGenSquare s
  | _ => execGenDc s

/-- Interval(f, N) of R144. For a frequency that is not positive the spec gives no value (log entry 6). -/
def intervalOf (b : Config.ValidBuild) (f : Int) (n : Nat) : BitVec 32 :=
  if 0 < f then BitVec.ofInt 32 (rnd (usPerS * b.val.tcNum) (f * n * b.val.tcDen))
  else Config.intervalAtBadDivisor (usPerS * b.val.tcNum) (f * n * b.val.tcDen)

/-- INTERVAL (R144). -/
def execInterval (s : State) : Result :=
  if legalSc s.sc.toNat then .next { s with interval := intervalOf s.build s.freq.toInt s.sc.toNat }
  else .fault .illegalSampleCount

end Sys2Proof.Machine
end

