-- ==== Sys2Proof/Machine/ModeMachine.lean ====
section
/-! DEFINITION. The mode operations of an iteration (44_mode_state_machine.md section 2). Each takes the state at the
start of the cycle, with the decoder's outputs and the sampled time in it. -/

namespace Sys2Proof.Machine

/-- ITER_RUNNING (R179): the poll, nothing else. -/
def execIterRunning (s : State) : Result := execSchedPoll s

/-- ITER_CONFIGURING (R180 to R183): the cursor is derived, one field edited, the parameters saturated and written once,
and the display refreshed. -/
def execIterConfiguring (s : State) : Result :=
  let (c, w) := deriveCursor s.fieldCnt s.kind
  orFault (edit (paramsOf s) c s.qdStep) fun p =>
  orFault (sat s.build p) fun p' =>
  andThen (writeParams p' s) fun s1 =>
  .next (configDisplay { s1 with editCursor := c, fieldCnt := w.getD s.fieldCnt })

/-- What a Calculating iteration writes beside the parameters, the buffer and the interval (R185): RUN_SC, the cursor,
and the two counters. -/
def finishCalculating (s : State) : State :=
  { s with runSc := s.sc, editCursor := 0#4, mode := 0#2, fieldCnt := 0#4 }

/-- ITER_CALCULATING (R185): saturate, generate, convert, then Running. -/
def execIterCalculating (s : State) : Result :=
  andThen (execSaturate s) fun s1 =>
  andThen (runGenerator s1) fun s2 =>
  andThen (execInterval s2) fun s3 =>
  .next (finishCalculating s3)

/-- ITER_INVALID (R187). -/
def execIterInvalid (s : State) : Result := .next { s with mode := defaultMode }

/-- The mode operation of an iteration: the one MODE selects at the start of the cycle (R83, R177). -/
def runMode (s : State) : Result :=
  match s.mode.toNat with
  | 0 => execIterRunning s
  | 1 => execIterConfiguring s
  | 2 => execIterCalculating s
  | _ => execIterInvalid s

end Sys2Proof.Machine
end

