-- ==== Sys2Proof/Machine/QuadratureDecoder.lean ====
section
/-! DEFINITION. The quadrature decoder (40_quadrature_decoder.md). -/

namespace Sys2Proof.Machine

/-- What a decoder operation writes: QD_STEP and QD_PREV (R101). -/
def qdResult (st : Step) (newPrev : Bool) (s : State) : State := { s with qdStep := st, qdPrev := newPrev }

/-- QD_STEP_PLUS (R102). -/
def execQdStepPlus (s : State) : Result := .next (qdResult .plus false s)

/-- QD_STEP_MINUS (R103). -/
def execQdStepMinus (s : State) : Result := .next (qdResult .minus false s)

/-- QD_NO_EDGE with the clock low before (R104): QD_PREV takes the clock level; the data level is not used. -/
def execQdNoEdgePrevLow (encClk _encData : Bool) (s : State) : Result := .next (qdResult .zero encClk s)

/-- QD_NO_EDGE with the clock staying high (R104). -/
def execQdNoEdgeClkHigh (_encData : Bool) (s : State) : Result := .next (qdResult .zero true s)

/-- The decoder of an iteration (R100): the operation that (QD_PREV, ENC_CLK, ENC_DATA) selects (R83). -/
def runDecoder (encClk encData : Bool) (s : State) : Result :=
  match s.qdPrev, encClk, encData with
  | true, false, true => execQdStepPlus s
  | true, false, false => execQdStepMinus s
  | true, true, d => execQdNoEdgeClkHigh d s
  | false, c, d => execQdNoEdgePrevLow c d s

end Sys2Proof.Machine
end

