-- ==== Sys2Proof/Machine/Cycle.lean ====
section
/-! DEFINITION. The cycle operations (44_mode_state_machine.md section 1; 70_reset_and_hazards.md section 1). -/

namespace Sys2Proof.Machine

/-- CYC_RESET (R220): every register, buffer entry and strobe at its reset value; every other input is ignored (R221).
The build parameters cannot change (R223), and the input bundles to come stay. -/
def execCycReset (_ignored : BitVec 37) (s : State) : Result :=
  .next { State.resetWith s.build with stimulus := s.stimulus }

/-- CYC_ITERATE (R170, R176): the decoder, the mode operation, the flags, then the presses. -/
def execCycIterate (modeEv fieldEv encClk encData : Bool) (nowUs : BitVec 32) (s : State) : Result :=
  andThen (runDecoder encClk encData { clearStrobes s with nowUs := nowUs }) fun s1 =>
  andThen (runMode s1) fun s2 =>
  .next (applyPresses modeEv fieldEv (iterationFlags s s2))

/-- CYC_MODE_PRESS without an iteration (R171, R175), with the field press of the same cycle. -/
def execCycModePress (fieldEv : Bool) (_ignored : BitVec 34) (s : State) : Result :=
  .next (pressOnly true fieldEv s)

/-- CYC_FIELD_PRESS without an iteration and without a mode press (R172, R175). -/
def execCycFieldPress (_ignored : BitVec 34) (s : State) : Result := .next (pressOnly false true s)

/-- CYC_IDLE (R175). -/
def execCycIdle (_ignored : BitVec 34) (s : State) : Result := .next (pressOnly false false s)

end Sys2Proof.Machine
end

