-- ==== Sys2Proof/Machine/Dispatch.lean ====
section
/-! DEFINITION. The meaning of each operation, one arm per constructor of Instr. -/

namespace Sys2Proof.Machine

def exec (i : Instr) (s : State) : Host.Outcome State Fault Refusal :=
  match i with
  | .cycReset ignored => Sys2Proof.Machine.execCycReset ignored s
  | .cycIterate modeEv fieldEv encClk encData nowUs => Sys2Proof.Machine.execCycIterate modeEv fieldEv encClk encData nowUs s
  | .cycModePress fieldEv ignored => Sys2Proof.Machine.execCycModePress fieldEv ignored s
  | .cycFieldPress ignored => Sys2Proof.Machine.execCycFieldPress ignored s
  | .cycIdle ignored => Sys2Proof.Machine.execCycIdle ignored s
  | .iterRunning => Sys2Proof.Machine.execIterRunning s
  | .iterConfiguring => Sys2Proof.Machine.execIterConfiguring s
  | .iterCalculating => Sys2Proof.Machine.execIterCalculating s
  | .iterInvalid => Sys2Proof.Machine.execIterInvalid s
  | .qdStepPlus => Sys2Proof.Machine.execQdStepPlus s
  | .qdStepMinus => Sys2Proof.Machine.execQdStepMinus s
  | .qdNoEdgePrevLow encClk encData => Sys2Proof.Machine.execQdNoEdgePrevLow encClk encData s
  | .qdNoEdgeClkHigh encData => Sys2Proof.Machine.execQdNoEdgeClkHigh encData s
  | .editKind => Sys2Proof.Machine.execEditKind s
  | .editFreqTens => Sys2Proof.Machine.execEditFreqTens s
  | .editFreqUnits => Sys2Proof.Machine.execEditFreqUnits s
  | .editAmpWhole => Sys2Proof.Machine.execEditAmpWhole s
  | .editAmpTenths => Sys2Proof.Machine.execEditAmpTenths s
  | .editAmpHundredths => Sys2Proof.Machine.execEditAmpHundredths s
  | .editOffsWhole => Sys2Proof.Machine.execEditOffsWhole s
  | .editOffsTenths => Sys2Proof.Machine.execEditOffsTenths s
  | .editOffsHundredths => Sys2Proof.Machine.execEditOffsHundredths s
  | .editSc => Sys2Proof.Machine.execEditSc s
  | .genSine => Sys2Proof.Machine.execGenSine s
  | .genRamp => Sys2Proof.Machine.execGenRamp s
  | .genSquare => Sys2Proof.Machine.execGenSquare s
  | .genDc => Sys2Proof.Machine.execGenDc s
  | .saturate => Sys2Proof.Machine.execSaturate s
  | .dcRedirect => Sys2Proof.Machine.execDcRedirect s
  | .interval => Sys2Proof.Machine.execInterval s
  | .schedPoll => Sys2Proof.Machine.execSchedPoll s

end Sys2Proof.Machine
end

