-- ==== Sys2Proof/Machine/Fetch.lean ====
section
/-! DEFINITION. How a step gets its operation: the head of the input bundles to come (R191; log entry 1), and how a
machine is constructed (R8). -/

namespace Sys2Proof.Machine

/-- The cycle operation of the next input bundle, and the state without that bundle. -/
def fetch (s : State) : Except Refusal (Instr × State) :=
  match s.stimulus with
  | [] => .error .noInputBundle
  | w :: rest =>
    match decodeProgramWord w with
    | .ok i => .ok (i, { s with stimulus := rest })
    | .error e => .error (.undecodable e)

/-- The machine of a parameter set, right after reset, with the input bundles to come; a set outside R7 is refused (R8). -/
def construct (b : Config.Build) (stimulus : List Word) : Result :=
  if h : b.valid = true then .next { State.resetWith ⟨b, h⟩ with stimulus := stimulus }
  else .refused .illegalParameters

end Sys2Proof.Machine
end

