-- ==== Sys2Proof/Machine/Step.lean ====
section
/-! DEFINITION. The step: one cycle (R170). -/

namespace Sys2Proof.Machine

/-- One cycle: the operation of the next input bundle is run. -/
def step (s : State) : Host.Outcome State Fault Refusal :=
  match fetch s with
  | .ok (i, s') => exec i s'
  | .error r => .refused r

/-- The state whose next input bundle is the one of an opcode-table word (log entry 10). -/
def State.withFetchWord (s : State) (nbits w : Nat) : State :=
  { s with stimulus := tableProgramWord nbits w :: s.stimulus.tail }

end Sys2Proof.Machine
end

