-- ==== Sys2Proof/Safety.lean ====
section
/-! DEFINITION. What a good state and a safe run are, in the terms the statements use. -/

namespace Sys2Proof.Machine

/-- The parameter invariant of R29 on the registers. -/
abbrev ParamsInRange (s : State) : Prop :=
  legalSc s.sc.toNat = true ∧
  1 ≤ s.freq.toInt ∧ s.freq.toInt ≤ fmax s.build s.sc.toNat ∧
  0 ≤ s.amp.toInt ∧ s.amp.toInt ≤ vref s.build ∧
  0 ≤ s.offs.toInt ∧ s.offs.toInt ≤ vref s.build

/-- What every reachable state satisfies: the parameters in range (R29), RUN_SC in SC_SET (R32), a legal cursor (R23),
the interval bound of R145, the buffer in its canonical form, and CFG_PREV set only after an iteration (R36, R37). -/
abbrev Inv (s : State) : Prop :=
  ParamsInRange s ∧
  legalSc s.runSc.toNat = true ∧
  s.editCursor ≤ 9#4 ∧
  s.interval.toNat < 62500 ∧
  s.buf.wf = true ∧
  (s.cfgPrev = true → s.started = true)

/-- The atomic configuration of R73: INTERVAL, RUN_SC and entries 0 to RUN_SC - 1 come from one generation on parameters
in their valid range, or no generation has run since reset (R64). -/
def OneConfiguration (s : State) : Prop :=
  (s.interval = 0#32 ∧ s.runSc = 16#8 ∧ ∀ i, s.buf.read i = 0#12) ∨
  ∃ (kind : BitVec 2) (f a o : Int),
    1 ≤ f ∧ f ≤ fmax s.build s.runSc.toNat ∧ 0 ≤ a ∧ a ≤ vref s.build ∧ 0 ≤ o ∧ o ≤ vref s.build ∧
    s.interval = intervalOf s.build f s.runSc.toNat ∧
    ∀ i, i < s.runSc.toNat → s.buf.read i = genCode (vref s.build) kind a o s.runSc.toNat i

/-- A run of n cycles, stopping at the first fault or refusal (R191). -/
def run : Nat → State → Result
  | 0, s => .next s
  | n + 1, s => andThen (step s) (run n)

/-- A run of n cycles that meets no model fault (R205: none is reachable from reset). -/
def SafeFor (n : Nat) (s : State) : Prop := ∀ f : Fault, run n s ≠ .fault f

end Sys2Proof.Machine
end

