-- ==== Sys2Proof/Certificates/Slice0/Obligations.lean ====
section
/-! DEFINITION. The statements for the provers. -/

open Sys2Proof Sys2Proof.Machine

/-! ### Encoding and decoding -/

/-- R80, R83: decoding the selector word of an operation gives the operation back, with every operand at every value. -/
def Obligations.DecodeOfEncodeIsTheInstruction : Prop :=
  ∀ i : Instr, decode (encode i) = .ok i

/-- R80, R82, R83: an accepted selector word is the encoding of the operation it selects, so no bit of a word is dropped.
That holds of the bits a cycle ignores because the model keeps them as operands (log entry 13); R80 itself says that the
block ignores them. CTL4 is left out here: it is encoded as the whole bundle, and ControlBitsSelectTheCycle says what it
decodes to. -/
def Obligations.EncodeOfDecodeIsTheWord : Prop :=
  ∀ (sel : Selector) (i : Instr), sel.fmt ≠ .ctl4 → decode sel = .ok i → encode i = sel

/-- R80, R82, R84: which cycle operation an input bundle selects, by its control bits, and that a control word of CTL4
selects what it selects as the top four bits of a bundle. That a word above its format's width is rejected is log entry 16,
and that a bundle is one operation, in this order, is log entry 20. -/
def Obligations.ControlBitsSelectTheCycle : Prop :=
  ∀ w : Word,
    (2 ^ 38 ≤ w.toNat → decodeProgramWord w = .error .bitsAboveWidth) ∧
    (w.toNat < 2 ^ 38 →
      (w.getLsbD 37 = true → ∃ g, decodeProgramWord w = .ok (.cycReset g)) ∧
      (w.getLsbD 37 = false → w.getLsbD 36 = true →
        decodeProgramWord w = .ok (.cycIterate (w.getLsbD 35) (w.getLsbD 34) (w.getLsbD 33) (w.getLsbD 32)
          (BitVec.ofNat 32 w.toNat))) ∧
      (w.getLsbD 37 = false → w.getLsbD 36 = false → w.getLsbD 35 = true →
        ∃ g, decodeProgramWord w = .ok (.cycModePress (w.getLsbD 34) g)) ∧
      (w.getLsbD 37 = false → w.getLsbD 36 = false → w.getLsbD 35 = false → w.getLsbD 34 = true →
        ∃ g, decodeProgramWord w = .ok (.cycFieldPress g)) ∧
      (w.getLsbD 37 = false → w.getLsbD 36 = false → w.getLsbD 35 = false → w.getLsbD 34 = false →
        ∃ g, decodeProgramWord w = .ok (.cycIdle g))) ∧
    (w.toNat < 16 → decode ⟨.ctl4, w⟩ = decode ⟨.in38, w <<< 34⟩) ∧
    (16 ≤ w.toNat → decode ⟨.ctl4, w⟩ = .error .bitsAboveWidth)

/-- R83, R85, R87: words written out from the spec's encodings decode to the operations they stand for. -/
def Obligations.SampleWordsDecode : Prop :=
  decodeProgramWord 0x1A0000024A#40 = .ok (.cycIterate true false true false 586#32) ∧
  decodeProgramWord 0x2000000000#40 = .ok (.cycReset 0#37) ∧
  decode ⟨.mode2, 0b10#40⟩ = .ok .iterCalculating ∧
  decode ⟨.qdin3, 0b101#40⟩ = .ok .qdStepPlus ∧
  decode ⟨.cursor4, 0b0110#40⟩ = .ok .editOffsWhole ∧
  decode ⟨.cursor4, 0b1010#40⟩ = .error .illegalCursor ∧
  decode ⟨.kind2, 0b10#40⟩ = .ok .genSquare

/-- R87: the line RESET, the line IDLE, and a line of items in any order (an ITER item with any presses, or presses alone)
each assemble to a word that decodes to its cycle, with 0 in every input that the cycle does not read (R80). -/
def Obligations.StimulusLineAssembles : Prop :=
  (∃ w, Line.assemble .reset = some w ∧ decodeProgramWord w = .ok (.cycReset 0#37)) ∧
  (∃ w, Line.assemble .idle = some w ∧ decodeProgramWord w = .ok (.cycIdle 0#34)) ∧
  (∀ (m f c d : Bool) (now : BitVec 32) (l : List Item),
    l.Perm ([Item.iter c d now] ++ (if m then [Item.pressMode] else []) ++ (if f then [Item.pressField] else [])) →
    ∃ w, Line.assemble (.items l) = some w ∧ decodeProgramWord w = .ok (.cycIterate m f c d now)) ∧
  (∀ (f : Bool) (l : List Item), l.Perm ([Item.pressMode] ++ (if f then [Item.pressField] else [])) →
    ∃ w, Line.assemble (.items l) = some w ∧ decodeProgramWord w = .ok (.cycModePress f 0#34)) ∧
  (∃ w, Line.assemble (.items [.pressField]) = some w ∧ decodeProgramWord w = .ok (.cycFieldPress 0#34))

/-! ### The step and the cycle -/

/-- A step runs the operation of the next input bundle on the state without that bundle, and its ports show the state it
leaves: each value port the register of its name, DAC_CODE its register, the strobes those of the cycle, QD_STEP the code of
the step (R43 to R45, R170). It stops by name where no bundle is left (the model's choice, log entry 1) and where the word is
no bundle (log entry 16). -/
def Obligations.StepRunsTheDecodedOperation : Prop :=
  (∀ (s : State) (w : Word) (rest : List Word) (i : Instr),
    s.stimulus = w :: rest → decodeProgramWord w = .ok i → step s = exec i { s with stimulus := rest }) ∧
  (∀ s : State, s.stimulus = [] → step s = .refused .noInputBundle) ∧
  (∀ (s : State) (w : Word) (rest : List Word) (e : DecodeError),
    s.stimulus = w :: rest → decodeProgramWord w = .error e → step s = .refused (.undecodable e)) ∧
  (∀ s t : State, step s = .next t →
    (portsOf t).kind = t.kind ∧ (portsOf t).freq = t.freq ∧ (portsOf t).amp = t.amp ∧ (portsOf t).offs = t.offs ∧
    (portsOf t).sc = t.sc ∧ (portsOf t).editCursor = t.editCursor ∧ (portsOf t).mode = t.mode ∧
    (portsOf t).dacCode = t.dacCode ∧ (portsOf t).dacWe = t.dacWe ∧ (portsOf t).dispFull = t.dispFull ∧
    (portsOf t).dispValues = t.dispValues ∧
    (portsOf t).qdStep = (match t.qdStep with | .zero => 0b00#2 | .plus => 0b01#2 | .minus => 0b11#2))

/-- R48, R62: what a reset cycle leaves in every register and buffer entry. Beside them, the strobes are 0 (R220) and the
build parameters as before (R223). -/
def Obligations.ResetCycleValues : Prop :=
  ∀ (s : State) (g : BitVec 37), ∃ t, exec (.cycReset g) s = .next t ∧
    t.mode = 2#2 ∧ t.fieldCnt = 0#4 ∧ t.editCursor = 0#4 ∧ t.kind = s.build.val.initKind ∧
    t.freq.toInt = s.build.val.initFreq ∧ t.amp.toInt = s.build.val.initAmp ∧ t.offs.toInt = s.build.val.initOffs ∧
    t.sc.toNat = s.build.val.initSc ∧ t.qdPrev = false ∧ t.interval = 0#32 ∧ t.runSc = 16#8 ∧ t.idx = 0#8 ∧
    t.lastT = 0#32 ∧ t.lastDispT = 0#32 ∧ t.cfgPrev = false ∧ t.started = false ∧ t.dacCode = 0#12 ∧
    (∀ i, t.buf.read i = 0#12) ∧
    t.dacWe = false ∧ t.dispFull = false ∧ t.dispValues = false ∧ t.qdStep.code = 0b00#2 ∧
    t.build = s.build

/-- R221: a reset cycle ignores every other input, and what the state was, its build parameters apart. -/
def Obligations.ResetIgnoresInputsAndState : Prop :=
  ∀ (s s' : State) (w w' : Word) (rest : List Word),
    s.build = s'.build → s.stimulus = w :: rest → s'.stimulus = w' :: rest →
    w.toNat < 2 ^ 38 → w'.toNat < 2 ^ 38 → w.getLsbD 37 = true → w'.getLsbD 37 = true →
    step s = step s' ∧ ∃ t, step s = .next t

/-- R175: a cycle without an iteration clears the strobes, adds its presses to the two counters modulo 4 and 16 (R171,
R172), and changes nothing else; its ports show strobes 0 and the registers as they were, MODE with its press. -/
def Obligations.CyclesWithoutAnIteration : Prop :=
  ∀ (s : State) (f : Bool) (g : BitVec 34),
    exec (.cycIdle g) s =
      .next { s with dacWe := false, dispFull := false, dispValues := false, qdStep := .zero } ∧
    exec (.cycFieldPress g) s =
      .next { s with dacWe := false, dispFull := false, dispValues := false, qdStep := .zero
                     fieldCnt := BitVec.ofNat 4 ((s.fieldCnt.toNat + 1) % 16) } ∧
    exec (.cycModePress f g) s =
      .next { s with dacWe := false, dispFull := false, dispValues := false, qdStep := .zero
                     mode := BitVec.ofNat 2 ((s.mode.toNat + 1) % 4)
                     fieldCnt := BitVec.ofNat 4 ((s.fieldCnt.toNat + f.toNat) % 16) } ∧
    ∀ i t, i ∈ [Instr.cycIdle g, .cycFieldPress g, .cycModePress f g] → exec i s = .next t →
      portsOf t = { portsOf s with dacWe := false, dispFull := false, dispValues := false, qdStep := 0b00#2
                                   mode := t.mode }

/-- R84, R170, R176: an iterating cycle is the decoder operation that (QD_PREV, ENC_CLK, ENC_DATA) selects, on the state
with the strobes cleared and the time sampled, then the mode operation that MODE selects, then the flags, the display
strobe and the presses. The selected operations are those the decoder reads from the selector words. -/
def Obligations.IterationRunsTheSelectedOperations : Prop :=
  ∀ (s : State) (m f c d : Bool) (now : BitVec 32), ∃ (iq im : Instr) (s1 : State),
    decode ⟨.qdin3, BitVec.ofNat 40 (4 * s.qdPrev.toNat + 2 * c.toNat + d.toNat)⟩ = .ok iq ∧
    decode ⟨.mode2, BitVec.ofNat 40 s.mode.toNat⟩ = .ok im ∧
    exec iq { s with dacWe := false, dispFull := false, dispValues := false, qdStep := .zero, nowUs := now } = .next s1 ∧
    (∀ s2, exec im s1 = .next s2 →
      exec (.cycIterate m f c d now) s =
        .next { s2 with started := true, cfgPrev := decide (s.mode = 1#2), dispFull := !s.started || s2.dispFull
                        mode := BitVec.ofNat 2 ((s2.mode.toNat + m.toNat) % 4)
                        fieldCnt := BitVec.ofNat 4 ((s2.fieldCnt.toNat + f.toNat) % 16) }) ∧
    (∀ r, exec im s1 = .fault r → exec (.cycIterate m f c d now) s = .fault r) ∧
    (∀ r, exec im s1 ≠ .refused r)

/-- R101, R176, R49: what every iterating cycle writes, whatever the mode; the build parameters stay (R223). Of the model's
own fields, `nowUs` holds the time of the cycle (log entry 5) and the coming input bundles stay (log entry 1): these two
clauses are the model's choice. -/
def Obligations.EveryIterationWrites : Prop :=
  ∀ (s t : State) (m f c d : Bool) (now : BitVec 32), exec (.cycIterate m f c d now) s = .next t →
    t.qdPrev = c ∧ t.started = true ∧ (t.cfgPrev = true ↔ s.mode = 1#2) ∧
    t.qdStep = (if s.qdPrev = true ∧ c = false then (if d then .plus else .minus) else .zero) ∧
    t.nowUs = now ∧ t.build = s.build ∧ t.stimulus = s.stimulus

/-- R173: each counter holds what the iteration wrote, or its value at the start of the cycle, plus the press of the cycle,
modulo its range. A Calculating iteration writes 0 to both (R185), an Invalid one 2 to MODE (R187), a Configuring one the
cursor it derives to FIELD_CNT when it differs (R181). -/
def Obligations.PressesMergeWithIterationWrites : Prop :=
  ∀ (s t : State) (m f c d : Bool) (now : BitVec 32), exec (.cycIterate m f c d now) s = .next t →
    t.mode.toNat = ((if s.mode = 2#2 then 0 else if s.mode = 3#2 then 2 else s.mode.toNat) + m.toNat) % 4 ∧
    t.fieldCnt.toNat =
      ((if s.mode = 2#2 then 0
        else if s.mode = 1#2 then
          (if s.kind = 3#2 ∧ s.fieldCnt.toNat % 10 = 1 then 6 else s.fieldCnt.toNat % 10)
        else s.fieldCnt.toNat) + f.toNat) % 16

/-- The transition table of R178, with the iterating cycle's completion from every state that satisfies the invariant. -/
def Obligations.ModeTransitionTable : Prop :=
  ∀ (s : State) (f c d : Bool) (now : BitVec 32) (g : BitVec 34), Inv s →
    ∃ t0 t1 t2,
      exec (.cycIterate false f c d now) s = .next t0 ∧
      exec (.cycIterate true f c d now) s = .next t1 ∧
      exec (.cycModePress f g) s = .next t2 ∧
      (s.mode = 0#2 → t0.mode = 0#2 ∧ t1.mode = 1#2 ∧ t2.mode = 1#2) ∧
      (s.mode = 1#2 → t0.mode = 1#2 ∧ t1.mode = 2#2 ∧ t2.mode = 2#2) ∧
      (s.mode = 2#2 → t0.mode = 0#2 ∧ t1.mode = 1#2 ∧ t2.mode = 3#2) ∧
      (s.mode = 3#2 → t0.mode = 2#2 ∧ t1.mode = 3#2 ∧ t2.mode = 0#2)

/-- R174: four mode presses, or sixteen field presses, in cycles without an iteration leave every register and the buffer as
they were; the strobes are 0, as after any cycle without an iteration (R175), and the four or sixteen bundles are used up
(log entry 1). -/
def Obligations.PressesCountModuloTheirRange : Prop :=
  ∀ (s : State) (rest : List Word),
    (s.stimulus = List.replicate 4 0x0800000000#40 ++ rest →
      run 4 s = .next { s with dacWe := false, dispFull := false, dispValues := false, qdStep := .zero
                               stimulus := rest }) ∧
    (s.stimulus = List.replicate 16 0x0400000000#40 ++ rest →
      run 16 s = .next { s with dacWe := false, dispFull := false, dispValues := false, qdStep := .zero
                                stimulus := rest })

/-! ### The quadrature decoder -/

/-- R102 to R104: what each decoder operation writes; nothing else changes. -/
def Obligations.DecoderOperationsWrite : Prop :=
  ∀ (s : State) (c d : Bool),
    exec .qdStepPlus s = .next { s with qdStep := .plus, qdPrev := false } ∧
    exec .qdStepMinus s = .next { s with qdStep := .minus, qdPrev := false } ∧
    exec (.qdNoEdgePrevLow c d) s = .next { s with qdStep := .zero, qdPrev := c } ∧
    exec (.qdNoEdgeClkHigh d) s = .next { s with qdStep := .zero, qdPrev := true }

/-- R102 to R104, and the truth table of R105 row by row: the operation that the pattern (QD_PREV, ENC_CLK, ENC_DATA)
selects, the step, its port code and the new QD_PREV; nothing else changes. -/
def Obligations.DecoderTruthTable : Prop :=
  ∀ (s : State) (p : Nat) (i : Instr) (st : Step) (port : BitVec 2) (newPrev : Bool),
    (p, i, st, port, newPrev) ∈
      [(0, Instr.qdNoEdgePrevLow false false, Step.zero, 0b00#2, false),
       (1, .qdNoEdgePrevLow false true, .zero, 0b00#2, false),
       (2, .qdNoEdgePrevLow true false, .zero, 0b00#2, true),
       (3, .qdNoEdgePrevLow true true, .zero, 0b00#2, true),
       (4, .qdStepMinus, .minus, 0b11#2, false),
       (5, .qdStepPlus, .plus, 0b01#2, false),
       (6, .qdNoEdgeClkHigh false, .zero, 0b00#2, true),
       (7, .qdNoEdgeClkHigh true, .zero, 0b00#2, true)] →
    decode ⟨.qdin3, BitVec.ofNat 40 p⟩ = .ok i ∧
    ∃ t, exec i s = .next t ∧ t.qdStep = st ∧ (portsOf t).qdStep = port ∧ t.qdPrev = newPrev ∧
      t = { s with qdStep := t.qdStep, qdPrev := t.qdPrev }

/-- R88, R101 to R104: with no other input between its two iterations, TURN_UP gives the steps 0 and +1 and TURN_DOWN 0 and
-1, whatever the level before; WAIT gives the step 0. Further bundles may follow. The decoder runs alike in every mode
(R101), so the steps come in any modes; the sentence of R88 that asks for one mode is read of the edit that a step makes
(log entry 21). -/
def Obligations.PseudoInstructionSteps : Prop :=
  ∀ (s t u : State) (now : BitVec 32) (ws rest : List Word), s.stimulus = ws ++ rest →
    ((Pseudo.turnUp now).expand.map Line.assemble = ws.map some →
      step s = .next t → step t = .next u → t.qdStep = .zero ∧ u.qdStep = .plus ∧ u.stimulus = rest) ∧
    ((Pseudo.turnDown now).expand.map Line.assemble = ws.map some →
      step s = .next t → step t = .next u → t.qdStep = .zero ∧ u.qdStep = .minus ∧ u.stimulus = rest) ∧
    ((Pseudo.wait now).expand.map Line.assemble = ws.map some →
      step s = .next t → t.qdStep = .zero ∧ t.qdPrev = true ∧ t.stimulus = rest)

/-! ### The field editor and the saturation pass -/

/-- R112: the kind moves by the decoder's step, the one on the QD_STEP port (log entry 4), modulo 4; nothing else
changes. -/
def Obligations.KindEditWraps : Prop :=
  ∀ s : State, ∃ t, exec .editKind s = .next t ∧
    (t.kind.toNat : Int) = ((s.kind.toNat : Int) + s.qdStep.toInt) % 4 ∧ t = { s with kind := t.kind }

/-- R11, R113, R114 (standing alone, log entries 4 and 8): a frequency edit adds 10 or 1 Hz times the step, without clamping, and changes nothing else; a result
that does not fit 16 signed bits is the named fault. -/
def Obligations.FrequencyEdits : Prop :=
  ∀ (s : State) (i : Instr) (k : Int), (i, k) ∈ [(Instr.editFreqTens, (10 : Int)), (.editFreqUnits, 1)] →
    let x := s.freq.toInt + k * s.qdStep.toInt
    (-32768 ≤ x ∧ x ≤ 32767 → ∃ t, exec i s = .next t ∧ t.freq.toInt = x ∧ t = { s with freq := t.freq }) ∧
    (x < -32768 ∨ 32767 < x → exec i s = .fault (.rangeOverflow .freq))

/-- R11, R115 to R117 (standing alone, log entries 4 and 8): an amplitude edit adds 10000, 1000 or 100 units times the step, without clamping, and changes
nothing else; a result that does not fit 32 signed bits is the named fault. -/
def Obligations.AmplitudeEdits : Prop :=
  ∀ (s : State) (i : Instr) (k : Int),
    (i, k) ∈ [(Instr.editAmpWhole, (10000 : Int)), (.editAmpTenths, 1000), (.editAmpHundredths, 100)] →
    let x := s.amp.toInt + k * s.qdStep.toInt
    (-2147483648 ≤ x ∧ x ≤ 2147483647 → ∃ t, exec i s = .next t ∧ t.amp.toInt = x ∧ t = { s with amp := t.amp }) ∧
    (x < -2147483648 ∨ 2147483647 < x → exec i s = .fault (.rangeOverflow .amp))

/-- R11, R118 to R120 (standing alone, log entries 4 and 8): an offset edit adds 10000, 1000 or 100 units times the step, without clamping, and changes nothing
else; a result that does not fit 32 signed bits is the named fault. -/
def Obligations.OffsetEdits : Prop :=
  ∀ (s : State) (i : Instr) (k : Int),
    (i, k) ∈ [(Instr.editOffsWhole, (10000 : Int)), (.editOffsTenths, 1000), (.editOffsHundredths, 100)] →
    let x := s.offs.toInt + k * s.qdStep.toInt
    (-2147483648 ≤ x ∧ x ≤ 2147483647 → ∃ t, exec i s = .next t ∧ t.offs.toInt = x ∧ t = { s with offs := t.offs }) ∧
    (x < -2147483648 ∨ 2147483647 < x → exec i s = .fault (.rangeOverflow .offs))

/-- The table of R122 for every legal sample count and step, which is the one on the QD_STEP port (log entry 4); nothing
else changes. An illegal sample count is the named fault (R121), without a step too (log entry 19). -/
def Obligations.SampleCountEdit : Prop :=
  ∀ s : State,
    (∀ n up down : Nat, (n, up, down) ∈ [(16, 32, 16), (32, 64, 16), (64, 128, 32), (128, 128, 64)] →
      s.sc.toNat = n → ∃ t, exec .editSc s = .next t ∧ t = { s with sc := t.sc } ∧
        t.sc.toNat = (match s.qdStep with | .plus => up | .minus => down | .zero => n)) ∧
    (s.sc.toNat ∉ [16, 32, 64, 128] → exec .editSc s = .fault .illegalSampleCount)

/-- R83, R111: the edit operation a legal cursor selects does to the registers what Edit does to the parameters, wherever
the results fit their registers; a cursor 10 to 15 selects none, and Edit faults on it (R85, R205). -/
def Obligations.CursorSelectsTheEdit : Prop :=
  ∀ (s : State) (c : BitVec 4),
    (c ≤ 9#4 → ∃ i, decode ⟨.cursor4, BitVec.ofNat 40 c.toNat⟩ = .ok i ∧
      ∀ p, edit (paramsOf s) c s.qdStep = .ok p →
        fitsSigned 16 p.freq = true → fitsSigned 32 p.amp = true → fitsSigned 32 p.offs = true →
        ∃ t, exec i s = .next t ∧ paramsOf t = p) ∧
    (9#4 < c → decode ⟨.cursor4, BitVec.ofNat 40 c.toNat⟩ = .error .illegalCursor ∧
      edit (paramsOf s) c s.qdStep = .error .illegalCursor)

/-- R125: fmax divides the global maximum by 1, 2, 4, 8 for the four sample counts; fmax(128) is at least 1; in TCFG it is
568, 284, 142, 71. -/
def Obligations.MaximumFrequencies : Prop :=
  (∀ b : Config.ValidBuild,
    fmax b 16 = b.val.gmaxHz ∧ fmax b 32 = (b.val.gmaxHz / 2 : Nat) ∧ fmax b 64 = (b.val.gmaxHz / 4 : Nat) ∧
    fmax b 128 = (b.val.gmaxHz / 8 : Nat) ∧ 1 ≤ fmax b 128) ∧
  fmax Config.tcfg 16 = 568 ∧ fmax Config.tcfg 32 = 284 ∧ fmax Config.tcfg 64 = 142 ∧ fmax Config.tcfg 128 = 71

/-- R124, R127: the saturation pass brings the sample count to at least 16, clamps the other parameters against it, leaves
the kind and everything else alone, and so establishes R29; a sample count its clause does not bring into SC_SET is the
named fault (C7, log entry 7). -/
def Obligations.SaturationClamps : Prop :=
  ∀ s : State,
    (legalSc (max s.sc.toNat 16) = true → ∃ t, exec .saturate s = .next t ∧
      t.sc.toNat = max s.sc.toNat 16 ∧
      t.freq.toInt = max 1 (min s.freq.toInt (fmax s.build (max s.sc.toNat 16))) ∧
      t.amp.toInt = max 0 (min s.amp.toInt (vref s.build)) ∧
      t.offs.toInt = max 0 (min s.offs.toInt (vref s.build)) ∧
      t = { s with freq := t.freq, amp := t.amp, offs := t.offs, sc := t.sc } ∧
      ParamsInRange t) ∧
    (legalSc (max s.sc.toNat 16) = false → exec .saturate s = .fault .illegalSampleCount)

/-- R128: the saturation pass is idempotent, and leaves parameters in their valid range as they are. -/
def Obligations.SaturationIsIdempotent : Prop :=
  (∀ s t : State, exec .saturate s = .next t → exec .saturate t = .next t) ∧
  (∀ s : State, ParamsInRange s → exec .saturate s = .next s)

/-- R123: with KIND = DC the cursor 1 is redirected to 6, which is written back to FIELD_CNT; every other legal cursor
stays, and nothing else changes. On a cursor 10 to 15 it is the named fault (R85; log entry 12). -/
def Obligations.DcRedirectsFieldOne : Prop :=
  ∀ s : State,
    (s.editCursor ≤ 9#4 → ¬(s.kind = 3#2 ∧ s.editCursor = 1#4) → exec .dcRedirect s = .next s) ∧
    (s.kind = 3#2 → s.editCursor = 1#4 →
      exec .dcRedirect s = .next { s with editCursor := 6#4, fieldCnt := 6#4 }) ∧
    (9#4 < s.editCursor → exec .dcRedirect s = .fault .illegalCursor)

/-! ### The mode operations -/

/-- R179, R187: a Running iteration does what the poll does; an Invalid one writes MODE and nothing else. -/
def Obligations.RunningAndInvalidIterations : Prop :=
  ∀ s : State,
    exec .iterInvalid s = .next { s with mode := 2#2 } ∧
    exec .iterRunning s = exec .schedPoll s ∧
    (legalSc s.runSc.toNat = true → ∃ t, exec .iterRunning s = .next t ∧
      t = { s with dacCode := t.dacCode, dacWe := t.dacWe, idx := t.idx, lastT := t.lastT })

/-- R180 to R183: a Configuring iteration on parameters in their valid range. The cursor is the field counter modulo 10,
redirected under DC, and is left in FIELD_CNT too; the parameters are the saturated edit of that field; the display is
redrawn on entry and refreshed after 500 ms; nothing else changes. -/
def Obligations.ConfiguringIteration : Prop :=
  ∀ s : State, ParamsInRange s → ∃ t p q, exec .iterConfiguring s = .next t ∧
    t.editCursor.toNat =
      (if s.kind = 3#2 ∧ s.fieldCnt.toNat % 10 = 1 then 6 else s.fieldCnt.toNat % 10) ∧
    t.fieldCnt = t.editCursor ∧
    edit (paramsOf s) t.editCursor s.qdStep = .ok p ∧ sat s.build p = .ok q ∧ paramsOf t = q ∧ ParamsInRange t ∧
    t.dispFull = (s.dispFull || !s.cfgPrev) ∧
    t.dispValues = (s.dispValues || (s.cfgPrev && decide (500000 ≤ (s.nowUs - s.lastDispT).toNat))) ∧
    t.lastDispT =
      (if s.cfgPrev = false ∨ 500000 ≤ (s.nowUs - s.lastDispT).toNat then s.nowUs else s.lastDispT) ∧
    t = { s with editCursor := t.editCursor, fieldCnt := t.fieldCnt, kind := t.kind, freq := t.freq, amp := t.amp
                 offs := t.offs, sc := t.sc, dispFull := t.dispFull, dispValues := t.dispValues
                 lastDispT := t.lastDispT }

/-- R84, R129, R180 to R182: on parameters in their valid range a Configuring iteration is its operations in order: the
counter reduced into the cursor, DC_REDIRECT, the edit that the cursor selects, SATURATE, and the display cadence. What the
operations do standing alone is the model's choice (log entries 4 and 12). -/
def Obligations.ConfiguringIsItsOperationsInOrder : Prop :=
  ∀ s : State, ParamsInRange s → ∃ (s2 s3 s4 : State) (ie : Instr),
    exec .dcRedirect { s with editCursor := s.fieldCnt % 10#4, fieldCnt := s.fieldCnt % 10#4 } = .next s2 ∧
    decode ⟨.cursor4, BitVec.ofNat 40 s2.editCursor.toNat⟩ = .ok ie ∧
    exec ie s2 = .next s3 ∧ exec .saturate s3 = .next s4 ∧
    exec .iterConfiguring s = .next (configDisplay s4)

/-- R111, R128, R129: without a step a Configuring iteration leaves parameters in their valid range as they are. -/
def Obligations.NoStepNoEdit : Prop :=
  ∀ s : State, ParamsInRange s → s.qdStep = .zero →
    ∃ t, exec .iterConfiguring s = .next t ∧ paramsOf t = paramsOf s

/-- R132: outside Configuring an iterating cycle leaves parameters in their valid range as they are, whatever the step. -/
def Obligations.OnlyConfiguringEdits : Prop :=
  ∀ (s t : State) (m f c d : Bool) (now : BitVec 32), ParamsInRange s → s.mode ≠ 1#2 →
    exec (.cycIterate m f c d now) s = .next t → paramsOf t = paramsOf s

/-- R63, R144, R185: a Calculating iteration on a sample count the saturation pass accepts: saturated parameters, a table of
Gen codes below SC, every other entry as before, the interval of the saturated frequency, RUN_SC, cursor, counters; nothing
else changes. That it goes on for a sample count below 16, which the pass brings to 16, is log entry 7. -/
def Obligations.CalculatingIteration : Prop :=
  ∀ s : State, s.buf.wf = true → legalSc (max s.sc.toNat 16) = true →
    ∃ t q, exec .iterCalculating s = .next t ∧ sat s.build (paramsOf s) = .ok q ∧ paramsOf t = q ∧
      (∀ i, t.buf.read i =
        if i < q.sc then genCode (vref s.build) q.kind q.amp q.offs q.sc i else s.buf.read i) ∧
      t.interval = intervalOf s.build q.freq q.sc ∧ t.runSc = t.sc ∧ t.editCursor = 0#4 ∧ t.mode = 0#2 ∧
      t.fieldCnt = 0#4 ∧
      t = { s with freq := t.freq, amp := t.amp, offs := t.offs, sc := t.sc, buf := t.buf, interval := t.interval
                   runSc := t.runSc, editCursor := t.editCursor, mode := t.mode, fieldCnt := t.fieldCnt }

/-- R83, R84, R185: on a sample count the saturation pass accepts, a Calculating iteration is its operations in order:
SATURATE, the generator that the saturated KIND selects, INTERVAL, and the writes of RUN_SC, the cursor and the counters.
That it goes on for a sample count below 16 is log entry 7; what the operations do standing alone is log entry 4. -/
def Obligations.CalculatingIsItsOperationsInOrder : Prop :=
  ∀ s : State, legalSc (max s.sc.toNat 16) = true → ∃ (s1 s2 s3 : State) (ig : Instr),
    exec .saturate s = .next s1 ∧
    decode ⟨.kind2, BitVec.ofNat 40 s1.kind.toNat⟩ = .ok ig ∧
    exec ig s1 = .next s2 ∧ exec .interval s2 = .next s3 ∧
    exec .iterCalculating s =
      .next { s3 with runSc := s3.sc, editCursor := 0#4, mode := 0#2, fieldCnt := 0#4 }

/-- R142: Calculating iterations on equal kinds, sample counts, amplitudes, offsets and reference voltages write equal
tables, whatever else the two states hold. -/
def Obligations.GenerationIsDeterministic : Prop :=
  ∀ s s' t t' : State, s.buf.wf = true → s'.buf.wf = true → s.build.val.vrefU = s'.build.val.vrefU →
    s.kind = s'.kind → s.sc = s'.sc → s.amp = s'.amp → s.offs = s'.offs →
    exec .iterCalculating s = .next t → exec .iterCalculating s' = .next t' →
    t.runSc = t'.runSc ∧ ∀ i, i < t.runSc.toNat → t.buf.read i = t'.buf.read i

/-- R190, R222: for every parameter set, the first iteration after reset with no press in its cycle leaves Running with
the cursor and the counter cleared, the initial table, its interval and its length, the startup redraw, and IDX and
LAST_T still 0. -/
def Obligations.FirstIterationAfterReset : Prop :=
  ∀ (b : Config.ValidBuild) (c d : Bool) (now : BitVec 32),
    ∃ t, exec (.cycIterate false false c d now) (State.resetWith b) = .next t ∧
      t.mode = 0#2 ∧ t.editCursor = 0#4 ∧ t.fieldCnt = 0#4 ∧ t.dispFull = true ∧ t.dacWe = false ∧
      (∀ i, i < b.val.initSc →
        t.buf.read i = genCode (vref b) b.val.initKind b.val.initAmp b.val.initOffs b.val.initSc i) ∧
      t.interval = intervalOf b b.val.initFreq b.val.initSc ∧ t.runSc.toNat = b.val.initSc ∧
      t.idx = 0#8 ∧ t.lastT = 0#32

/-- R183, R189: when the display strobes fire in an iterating cycle, and what LAST_DISP_T becomes. -/
def Obligations.DisplayStrobes : Prop :=
  ∀ (s t : State) (m f c d : Bool) (now : BitVec 32), exec (.cycIterate m f c d now) s = .next t →
    (t.dispFull = true ↔ s.started = false ∨ (s.mode = 1#2 ∧ s.cfgPrev = false)) ∧
    (t.dispValues = true ↔ s.mode = 1#2 ∧ s.cfgPrev = true ∧ 500000 ≤ (now - s.lastDispT).toNat) ∧
    t.lastDispT =
      (if s.mode = 1#2 ∧ (s.cfgPrev = false ∨ 500000 ≤ (now - s.lastDispT).toNat) then now else s.lastDispT)

/-- R31, R32, R63: an iterating cycle outside Calculating leaves BUF, INTERVAL and RUN_SC as they are; a Calculating one
leaves the entries from the new RUN_SC on as they are. -/
def Obligations.OnlyCalculatingWritesTheTable : Prop :=
  ∀ (s t : State) (m f c d : Bool) (now : BitVec 32), exec (.cycIterate m f c d now) s = .next t →
    (s.mode ≠ 2#2 → t.buf = s.buf ∧ t.interval = s.interval ∧ t.runSc = s.runSc) ∧
    (s.mode = 2#2 → s.buf.wf = true → ∀ i, t.runSc.toNat ≤ i → t.buf.read i = s.buf.read i)

/-! ### The waveform generator -/

/-- R135, R137, R138: GEN_SINE writes the sine codes below SC and nothing else; SineOfEverySampleIsTheRoms says which sine
each sample has. The formula on any AMP and OFFS is log entry 18. An illegal sample count is the named fault of R205. -/
def Obligations.SineTable : Prop :=
  ∀ s : State, s.buf.wf = true →
    (legalSc s.sc.toNat = true → ∃ t, exec .genSine s = .next t ∧ t = { s with buf := t.buf } ∧
      ∀ i, t.buf.read i =
        if i < s.sc.toNat then
          quant (4096 * (s.amp.toInt * sinf i s.sc.toNat + 2147483648 * s.offs.toInt)) (2147483648 * vref s.build)
        else s.buf.read i) ∧
    (legalSc s.sc.toNat = false → exec .genSine s = .fault .illegalSampleCount)

/-- R66, R138: the sine of every sample of every legal sample count. The first quarter wave steps through the table of R66
(its hexadecimal column) in steps of 128 / N; the second quarter mirrors it; the second half is the first negated. -/
def Obligations.SineOfEverySampleIsTheRoms : Prop :=
  let rom : List Int :=
    [0x00000000, 0x0323ECBE, 0x0645E9AF, 0x09640837, 0x0C7C5C1E, 0x0F8CFCBE, 0x1294062F, 0x158F9A76] ++
    [0x187DE2A7, 0x1B5D100A, 0x1E2B5D38, 0x20E70F32, 0x238E7673, 0x261FEFFA, 0x2899E64A, 0x2AFAD269] ++
    [0x2D413CCD, 0x2F6BBE45, 0x317900D6, 0x3367C090, 0x3536CC52, 0x36E5068A, 0x387165E3, 0x39DAF5E8] ++
    [0x3B20D79E, 0x3C42420A, 0x3D3E82AE, 0x3E14FDF7, 0x3EC52FA0, 0x3F4EAAFE, 0x3FB11B48, 0x3FEC43C7] ++
    [0x40000000]
  ∀ n k : Nat, legalSc n = true → k ≤ n / 4 →
    sinf k n = rom.getD (k * (128 / n)) 0 ∧
    sinf (n / 2 - k) n = rom.getD (k * (128 / n)) 0 ∧
    sinf (n / 2 + k) n = -rom.getD (k * (128 / n)) 0 ∧
    (0 < k → sinf (n - k) n = -rom.getD (k * (128 / n)) 0)

/-- R135, R139: GEN_RAMP writes the ramp codes below SC and nothing else. The formula on any AMP and OFFS is log entry 18.
An illegal sample count is the named fault of R205. -/
def Obligations.RampTable : Prop :=
  ∀ s : State, s.buf.wf = true →
    (legalSc s.sc.toNat = true → ∃ t, exec .genRamp s = .next t ∧ t = { s with buf := t.buf } ∧
      ∀ i, t.buf.read i =
        if i < s.sc.toNat then
          quant (4096 * (s.amp.toInt * i + s.offs.toInt * s.sc.toNat)) (vref s.build * s.sc.toNat)
        else s.buf.read i) ∧
    (legalSc s.sc.toNat = false → exec .genRamp s = .fault .illegalSampleCount)

/-- R135, R140: GEN_SQUARE writes the high code below SC / 2 and the low code from there to SC, and nothing else. The
formula on any AMP and OFFS is log entry 18. An illegal sample count is the named fault of R205. -/
def Obligations.SquareTable : Prop :=
  ∀ s : State, s.buf.wf = true →
    (legalSc s.sc.toNat = true → ∃ t, exec .genSquare s = .next t ∧ t = { s with buf := t.buf } ∧
      ∀ i, t.buf.read i =
        if i < s.sc.toNat / 2 then quant (4096 * (s.amp.toInt + s.offs.toInt)) (vref s.build)
        else if i < s.sc.toNat then quant (4096 * s.offs.toInt) (vref s.build)
        else s.buf.read i) ∧
    (legalSc s.sc.toNat = false → exec .genSquare s = .fault .illegalSampleCount)

/-- R135, R141: GEN_DC writes the offset's code below SC and nothing else; AMP is not read: the codes do not depend on it.
The formula on any OFFS is log entry 18. An illegal sample count is the named fault of R205. -/
def Obligations.DcTable : Prop :=
  ∀ s : State, s.buf.wf = true →
    (legalSc s.sc.toNat = true → ∃ t, exec .genDc s = .next t ∧ t = { s with buf := t.buf } ∧
      ∀ i, t.buf.read i =
        if i < s.sc.toNat then quant (4096 * s.offs.toInt) (vref s.build) else s.buf.read i) ∧
    (legalSc s.sc.toNat = false → exec .genDc s = .fault .illegalSampleCount)

/-- R12, R136: for a positive divisor the stored code is the nearest integer to n / d, halves rounded up, saturated into
[0, 4095]. -/
def Obligations.QuantizationRoundsAndSaturates : Prop :=
  ∀ n d : Int, 0 < d → ∃ x : Int, 2 * d * x ≤ 2 * n + d ∧ 2 * n + d < 2 * d * (x + 1) ∧
    ((quant n d).toNat : Int) = max 0 (min x 4095) ∧
    (4095 * d < n → quant n d = 4095#12) ∧ (n < 0 → quant n d = 0#12)

/-- R148, sine: the codes at the four quarter points, for every reference voltage, amplitude and offset. -/
def Obligations.SineQuarterPoints : Prop :=
  ∀ (v a o : Int) (n : Nat), 0 < v → legalSc n = true →
    sineCode v a o n 0 = quant (4096 * o) v ∧
    sineCode v a o n (n / 4) = quant (4096 * (a + 2 * o)) (2 * v) ∧
    sineCode v a o n (n / 2) = sineCode v a o n 0 ∧
    sineCode v a o n (3 * n / 4) = quant (4096 * (2 * o - a)) (2 * v)

/-- R148, ramp: it starts at the offset's code and never falls. -/
def Obligations.RampNeverFalls : Prop :=
  ∀ (v a o : Int) (n : Nat), 0 < v → 0 ≤ a → legalSc n = true →
    rampCode v a o n 0 = quant (4096 * o) v ∧
    ∀ i j, i ≤ j → j < n → (rampCode v a o n i).toNat ≤ (rampCode v a o n j).toNat

/-- R148, square (C5: read for the first half only): the high half is at least the low half. -/
def Obligations.SquareHighHalf : Prop :=
  ∀ (v a o : Int) (n i : Nat), 0 < v → 0 ≤ a → legalSc n = true → i < n / 2 →
    (squareCode v a o n (i + n / 2)).toNat ≤ (squareCode v a o n i).toNat

/-- R144, R145: INTERVAL writes the rounded interval of a positive frequency, below 62 500, and nothing else; for a frequency
that is not positive, where the spec states no value, it writes some value and nothing else (log entry 6). An illegal sample
count is the named fault of R205. -/
def Obligations.IntervalConversion : Prop :=
  ∀ s : State,
    (legalSc s.sc.toNat = true → ∃ t, exec .interval s = .next t ∧ t = { s with interval := t.interval } ∧
      (1 ≤ s.freq.toInt →
        (t.interval.toNat : Int) =
          rnd (1000000 * s.build.val.tcNum) (s.freq.toInt * s.sc.toNat * s.build.val.tcDen) ∧
        t.interval.toNat < 62500)) ∧
    (legalSc s.sc.toNat = false → exec .interval s = .fault .illegalSampleCount)

/-! ### The sample scheduler -/

/-- R160: a poll whose deadline has passed emits the entry IDX modulo RUN_SC, counts IDX modulo 256 and records the time;
one before its deadline emits nothing; nothing else changes. An illegal RUN_SC is the named fault (log entry 15). -/
def Obligations.SchedulerPoll : Prop :=
  ∀ s : State,
    (legalSc s.runSc.toNat = true → s.interval.toNat ≤ (s.nowUs - s.lastT).toNat →
      exec .schedPoll s =
        .next { s with dacCode := s.buf.read (s.idx.toNat % s.runSc.toNat), dacWe := true
                       idx := BitVec.ofNat 8 ((s.idx.toNat + 1) % 256), lastT := s.nowUs }) ∧
    (legalSc s.runSc.toNat = true → (s.nowUs - s.lastT).toNat < s.interval.toNat →
      exec .schedPoll s = .next { s with dacWe := false }) ∧
    (legalSc s.runSc.toNat = false → exec .schedPoll s = .fault .illegalSampleCount)

/-- R43, R160, R161, R164, R184: an iterating cycle strobes DAC_WE exactly when it is Running and the deadline has passed;
then, and only then, DAC_CODE, IDX and LAST_T change. -/
def Obligations.SamplesOnlyFromRunning : Prop :=
  ∀ (s t : State) (m f c d : Bool) (now : BitVec 32), exec (.cycIterate m f c d now) s = .next t →
    (t.dacWe = true ↔ s.mode = 0#2 ∧ s.interval.toNat ≤ (now - s.lastT).toNat) ∧
    (t.dacWe = true → t.dacCode = s.buf.read (s.idx.toNat % s.runSc.toNat) ∧ t.idx = s.idx + 1#8 ∧ t.lastT = now) ∧
    (t.dacWe = false → t.dacCode = s.dacCode ∧ t.idx = s.idx ∧ t.lastT = s.lastT)

/-- R162: no catch-up. After a Running cycle that emitted at time t1, a Running cycle at t2 emits exactly when t2 - t1 is
at least the interval, however late the first one was. -/
def Obligations.NoCatchUp : Prop :=
  ∀ (s t u : State) (f c d f' c' d' : Bool) (t1 t2 : BitVec 32), s.mode = 0#2 →
    exec (.cycIterate false f c d t1) s = .next t → t.dacWe = true →
    exec (.cycIterate false f' c' d' t2) t = .next u →
    (u.dacWe = true ↔ s.interval.toNat ≤ (t2 - t1).toNat)

/-- R163: after an emission the next index is the one before it plus one modulo RUN_SC, also where IDX wraps. -/
def Obligations.IndexWrapsWithTheTable : Prop :=
  ∀ s t : State, exec .schedPoll s = .next t → t.dacWe = true → s.interval.toNat ≤ (s.nowUs - s.lastT).toNat →
    (pollIndex s).toNat = s.idx.toNat % s.runSc.toNat ∧
    (pollIndex t).toNat = ((pollIndex s).toNat + 1) % s.runSc.toNat

/-! ### The buffer and the build -/

/-- Two buffers in canonical form that read the same at every index are equal data. -/
def Obligations.CanonicalBuffersAreEqualData : Prop :=
  ∀ m m' : Memory, m.wf = true → m'.wf = true → (∀ i, m.read i = m'.read i) → m = m'

/-- R8: a parameter set outside the ranges of R7 is refused at construction; any other gives a machine in its reset state
(R223). -/
def Obligations.ConstructionRefusesIllegalParameters : Prop :=
  ∀ (b : Config.Build) (ws : List Word),
    (∀ h : b.valid = true, construct b ws = .next { State.resetWith ⟨b, h⟩ with stimulus := ws }) ∧
    (b.valid = false → construct b ws = .refused .illegalParameters) ∧
    (b.valid = true ↔
      (1 ≤ b.vrefU ∧ b.vrefU ≤ 300000) ∧ (8 ≤ b.gmaxHz ∧ b.gmaxHz ≤ 32000) ∧
      (1 ≤ b.tcNum ∧ b.tcNum < b.tcDen ∧ b.tcDen ≤ 65536) ∧ b.initSc ∈ [16, 32, 64, 128] ∧
      (1 ≤ b.initFreq ∧ b.initFreq ≤ b.gmaxHz / (b.initSc / 16)) ∧ b.initAmp ≤ b.vrefU ∧ b.initOffs ≤ b.vrefU)

/-! ### Invariants and safety -/

/-- The reset state of every parameter set satisfies the invariant and the atomic-configuration property. -/
def Obligations.ResetIsGood : Prop :=
  Inv State.reset ∧ ∀ b : Config.ValidBuild, Inv (State.resetWith b) ∧ OneConfiguration (State.resetWith b)

/-- R23, R28, R29, R32, R145: every step from a state that satisfies the invariant leaves one that does. -/
def Obligations.StepKeepsTheInvariant : Prop :=
  ∀ s t : State, Inv s → step s = .next t → Inv t

/-- R28, R200, R205: from a state that satisfies the invariant no step meets a model fault; it goes on whenever the next
word is an input bundle. -/
def Obligations.StepMeetsNoModelFault : Prop :=
  ∀ s : State, Inv s →
    (∀ r, step s ≠ .fault r) ∧
    (∀ w rest, s.stimulus = w :: rest → w.toNat < 2 ^ 38 → ∃ t, step s = .next t ∧ t.stimulus = rest ∧ Inv t)

/-- R205, R223: from the reset state of every parameter set, no run on any input bundles meets a model fault. -/
def Obligations.NoRunMeetsAModelFault : Prop :=
  ∀ (b : Config.ValidBuild) (ws : List Word) (n : Nat), SafeFor n { State.resetWith b with stimulus := ws }

/-- R73: every step from a state that satisfies the invariant and whose table, interval and length are one configuration
leaves such a state. -/
def Obligations.StepKeepsOneConfiguration : Prop :=
  ∀ s t : State, Inv s → OneConfiguration s → step s = .next t → OneConfiguration t

/-- R170, R191: a machine with enough input bundles left runs that many cycles from any state that satisfies the
invariant, and uses up exactly those bundles. -/
def Obligations.RunsCompleteOnInputBundles : Prop :=
  ∀ (s : State) (ws rest : List Word), Inv s → s.stimulus = ws ++ rest → (∀ w ∈ ws, w.toNat < 2 ^ 38) →
    ∃ t, run ws.length s = .next t ∧ t.stimulus = rest ∧ Inv t
end

