-- ==== Sys2Proof/Laws/Decode.lean ====
section
/-! SUPPORT. Laws of the selector words. -/

namespace Sys2Proof

/-- The one bit that a placed bit sets. -/
theorem getLsbD_bitAt (n : Nat) (b : Bool) (k : Nat) :
    (bitAt n b).getLsbD k = (b && decide (k < 40) && decide (k = n)) := by
  unfold bitAt
  cases b
  · simp
  · rw [if_pos rfl, BitVec.getLsbD_shiftLeft, BitVec.getLsbD_one]
    by_cases h1 : k < 40 <;> by_cases h2 : k = n <;> by_cases h3 : k < n <;> (simp [h1, h2, h3]; try omega)

/-- A word below 2^38 is one with bits 38 and 39 clear. -/
theorem toNat_lt_of_high_clear {w : Word} (h38 : w.getLsbD 38 = false) (h39 : w.getLsbD 39 = false) : w.toNat < 2 ^ 38 := by
  refine Nat.lt_pow_two_of_testBit _ fun j hj => ?_
  have hw : w.toNat.testBit j = w.getLsbD j := rfl
  rw [hw]
  by_cases h : j < 40
  · rcases (by omega : j = 38 ∨ j = 39) with rfl | rfl <;> assumption
  · exact BitVec.getLsbD_of_ge w j (by omega)

/-- A word of an input bundle decodes as one (R87). -/
theorem decode_in38 {w : Word} (h : w.toNat < 2 ^ 38) : decode ⟨.in38, w⟩ = .ok (decodeIn38 w) := by
  unfold decode; exact if_pos h

/-- A word with bit 38 or 39 set is rejected (R87). -/
theorem decode_in38_above {w : Word} (h : 2 ^ 38 ≤ w.toNat) : decode ⟨.in38, w⟩ = .error .bitsAboveWidth := by
  unfold decode; exact if_neg (Nat.not_lt.mpr h)

/-- A property of every word of n bits, checked word by word. -/
theorem forall_word_lt {P : Word → Prop} (n : Nat) (h : ∀ k, k < 2 ^ n → P (BitVec.ofNat 40 k)) (w : Word)
    (hw : w.toNat < 2 ^ n) : P w := by
  have := h w.toNat hw
  simpa using this

/-- The word of a line does not depend on the order of its items (R87). -/
theorem itemsWord_perm {l l' : List Item} (h : l.Perm l') :
    (l.map Item.bits).foldl (· ||| ·) 0#40 = (l'.map Item.bits).foldl (· ||| ·) 0#40 :=
  have : RightCommutative (fun (a b : Word) => a ||| b) := ⟨fun a b c => by
    show a ||| b ||| c = a ||| c ||| b
    rw [BitVec.or_assoc, BitVec.or_comm b, ← BitVec.or_assoc]⟩
  (h.map Item.bits).foldl_eq 0#40

/-- Nor does its well-formedness. -/
theorem itemsWf_perm {l l' : List Item} (h : l.Perm l') : (Line.items l).wf = (Line.items l').wf := by
  simp only [Line.wf, (h.filter _).length_eq, h.count_eq, h.isEmpty_eq]

/-- Lines of the same items in any order assemble to the same word. -/
theorem assemble_perm {l l' : List Item} (h : l.Perm l') : Line.assemble (.items l) = Line.assemble (.items l') := by
  simp only [Line.assemble, itemsWf_perm h, itemsWord_perm h]

end Sys2Proof
end

