-- ==== Sys2Proof/Laws/Memory.lean ====
section
/-! SUPPORT. The laws of the buffer: every operation keeps the canonical form, a read after a write, and a table write. -/

namespace Sys2Proof.Machine

theorem Memory.wfFrom_mono {lo lo' : Nat} (h : lo' ≤ lo) : ∀ {m : Memory}, Memory.wfFrom lo m = true → Memory.wfFrom lo' m = true
  | [], _ => rfl
  | (b, w) :: m, hm => by
    simp only [Memory.wfFrom, Bool.and_eq_true, decide_eq_true_eq] at hm ⊢
    exact ⟨⟨⟨by omega, hm.1.1.2⟩, hm.1.2⟩, hm.2⟩

/-- Below the first index of a canonical buffer every entry is unlisted. -/
theorem Memory.read_below {lo : Nat} : ∀ {m : Memory}, Memory.wfFrom lo m = true → ∀ {a}, a < lo → Memory.read m a = Memory.unlisted
  | [], _, _, _ => rfl
  | (b, w) :: m, hm, a, ha => by
    simp only [Memory.wfFrom, Bool.and_eq_true, decide_eq_true_eq] at hm
    rw [Memory.read, if_neg (by omega : ¬ a = b)]
    exact Memory.read_below hm.2 (by omega)

/-- Above the index space every entry of a canonical buffer is unlisted. -/
theorem Memory.read_above : ∀ {m : Memory} {lo : Nat}, Memory.wfFrom lo m = true → ∀ {a}, 128 ≤ a → Memory.read m a = Memory.unlisted
  | [], _, _, _, _ => rfl
  | (b, w) :: m, lo, hm, a, ha => by
    simp only [Memory.wfFrom, Bool.and_eq_true, decide_eq_true_eq] at hm
    rw [Memory.read, if_neg (by omega : ¬ a = b)]
    exact Memory.read_above hm.2 ha

theorem Memory.write_wfFrom (v : Code) {a : Nat} (ha : a < 128) :
    ∀ {m : Memory} {lo : Nat}, Memory.wfFrom lo m = true → lo ≤ a → Memory.wfFrom lo (Memory.write m a v) = true
  | [], lo, _, hlo => by
    rw [Memory.write]
    split
    · rfl
    · rename_i hv
      simp [Memory.wfFrom, hlo, ha, hv]
  | (b, w) :: m, lo, hm, hlo => by
    have hm' := hm
    simp only [Memory.wfFrom, Bool.and_eq_true, decide_eq_true_eq] at hm
    obtain ⟨⟨⟨h1, h2⟩, h3⟩, h4⟩ := hm
    rw [Memory.write]
    split
    · split
      · exact hm'
      · rename_i hv
        have : a + 1 ≤ b := by omega
        simp [Memory.wfFrom, hlo, ha, hv, h2, this, h4, bne_iff_ne.mp h3]
    · split
      · split
        · exact Memory.wfFrom_mono (by omega) h4
        · rename_i hab hv
          subst hab
          simp [Memory.wfFrom, h1, h2, hv, h4]
      · have := Memory.write_wfFrom v ha (m := m) (lo := b + 1) h4 (by omega)
        simp [Memory.wfFrom, h1, h2, this, bne_iff_ne.mp h3]

/-- A write inside the index space keeps the canonical form. -/
theorem Memory.write_wf {m : Memory} {a : Nat} (v : Code) (ha : a < 128) (h : m.wf = true) : (m.write a v).wf = true :=
  Memory.write_wfFrom v ha h (Nat.zero_le a)

theorem Memory.read_write_same_from (v : Code) {a : Nat} :
    ∀ {m : Memory} {lo : Nat}, Memory.wfFrom lo m = true → Memory.read (Memory.write m a v) a = v
  | [], _, _ => by
    rw [Memory.write]
    split
    · rename_i hv; rw [hv]; rfl
    · simp [Memory.read]
  | (b, w) :: m, lo, hm => by
    simp only [Memory.wfFrom, Bool.and_eq_true, decide_eq_true_eq] at hm
    rw [Memory.write]
    split
    · split
      · rename_i hab hv
        rw [Memory.read, if_neg (by omega), hv, Memory.read_below hm.2 (by omega)]
      · simp [Memory.read]
    · split
      · split
        · rename_i hab hv
          rw [hv, Memory.read_below hm.2 (by omega)]
        · simp [Memory.read]
      · rename_i hab
        rw [Memory.read, if_neg hab]
        exact Memory.read_write_same_from v hm.2

/-- An entry reads as what was written to it. -/
theorem Memory.read_write_same {m : Memory} (a : Nat) (v : Code) (h : m.wf = true) : (m.write a v).read a = v :=
  Memory.read_write_same_from v h

/-- A write leaves every other entry alone. -/
theorem Memory.read_write_ne {a c : Nat} (v : Code) (hne : c ≠ a) : ∀ m : Memory, (Memory.write m a v).read c = Memory.read m c
  | [] => by
    rw [Memory.write]
    split
    · rfl
    · simp [Memory.read, hne]
  | (b, w) :: m => by
    rw [Memory.write]
    split
    · split
      · rfl
      · simp [Memory.read, hne]
    · split
      · rename_i hab
        split
        · simp [Memory.read, ← hab, hne]
        · simp [Memory.read, ← hab, hne]
      · simp only [Memory.read]
        rw [Memory.read_write_ne v hne m]

/-- A table write of at most 128 entries keeps the canonical form. -/
theorem Memory.writeTable_wf (f : Nat → Code) {m : Memory} (h : m.wf = true) :
    ∀ {n : Nat}, n ≤ 128 → (Memory.writeTable f n m).wf = true
  | 0, _ => h
  | _ + 1, hn => Memory.write_wf _ (by omega) (Memory.writeTable_wf f h (by omega))

/-- What a table write does: entries below n hold f, every other entry is as before. -/
theorem Memory.read_writeTable (f : Nat → Code) {m : Memory} (h : m.wf = true) (i : Nat) :
    ∀ {n : Nat}, n ≤ 128 → (Memory.writeTable f n m).read i = if i < n then f i else m.read i
  | 0, _ => by simp [Memory.writeTable]
  | n + 1, hn => by
    rw [Memory.writeTable]
    by_cases hi : i = n
    · subst hi
      rw [Memory.read_write_same i _ (Memory.writeTable_wf f h (by omega)), if_pos (by omega)]
    · rw [Memory.read_write_ne _ hi, Memory.read_writeTable f h i (by omega)]
      by_cases h1 : i < n
      · rw [if_pos h1, if_pos (by omega)]
      · rw [if_neg h1, if_neg (by omega)]

end Sys2Proof.Machine
end

