-- ==== Sys2Proof/Laws/Numeric.lean ====
section
/-! SUPPORT. Laws of the arithmetic primitives and of the tables. -/

namespace Sys2Proof.Machine

theorem clamp_ge {x lo hi : Int} (h : lo ≤ hi) : lo ≤ clamp x lo hi := by
  unfold clamp; split <;> [omega; (split <;> omega)]

theorem clamp_le {x lo hi : Int} (h : lo ≤ hi) : clamp x lo hi ≤ hi := by
  unfold clamp; split <;> [omega; (split <;> omega)]

theorem clamp_id {x lo hi : Int} (h1 : lo ≤ x) (h2 : x ≤ hi) : clamp x lo hi = x := by
  unfold clamp; split <;> [omega; (split <;> omega)]

theorem clamp_eq_max_min {x lo hi : Int} (h : lo ≤ hi) : clamp x lo hi = max lo (min x hi) := by
  unfold clamp; split <;> [omega; (split <;> omega)]

theorem clamp_mono {x y lo hi : Int} (h : lo ≤ hi) (hxy : x ≤ y) : clamp x lo hi ≤ clamp y lo hi := by
  rw [clamp_eq_max_min h, clamp_eq_max_min h]; omega

theorem fitsSigned_iff {w : Nat} {x : Int} :
    fitsSigned w x = true ↔ -(2 ^ (w - 1) : Int) ≤ x ∧ x < (2 ^ (w - 1) : Int) := by
  simp [fitsSigned]

theorem fitsSigned_toInt16 (v : BitVec 16) : fitsSigned 16 v.toInt = true := by
  rw [fitsSigned_iff]; have := v.toInt_lt; have := v.le_toInt; constructor <;> norm_num at * <;> omega

theorem fitsSigned_toInt32 (v : BitVec 32) : fitsSigned 32 v.toInt = true := by
  rw [fitsSigned_iff]; have := v.toInt_lt; have := v.le_toInt; constructor <;> norm_num at * <;> omega

/-- A value that fits a register is read back from it. -/
theorem toInt_ofInt_of_fits {w : Nat} {x : Int} (hw : 0 < w) (h : fitsSigned w x = true) : (BitVec.ofInt w x).toInt = x := by
  rw [fitsSigned_iff] at h
  have he : (2 : Int) ^ w = 2 * 2 ^ (w - 1) := by
    rw [← pow_succ']; congr 1; omega
  rw [BitVec.toInt_ofInt, Int.bmod_def]
  have hc : ((2 ^ w : Nat) : Int) = 2 * 2 ^ (w - 1) := by push_cast; exact he
  rw [hc]
  split <;> rename_i hlt
  · by_cases hx : 0 ≤ x
    · exact Int.emod_eq_of_lt hx (by omega)
    · rw [← Int.add_emod_right, Int.emod_eq_of_lt (by omega) (by omega)] at hlt
      omega
  · by_cases hx : 0 ≤ x
    · rw [Int.emod_eq_of_lt hx (by omega)] at hlt
      omega
    · rw [← Int.add_emod_right, Int.emod_eq_of_lt (by omega) (by omega)]
      omega

theorem legalSc_cases {n : Nat} (h : legalSc n = true) : n = 16 ∨ n = 32 ∨ n = 64 ∨ n = 128 := by
  simpa [legalSc, or_assoc] using h

theorem legalSc_le {n : Nat} (h : legalSc n = true) : 16 ≤ n ∧ n ≤ 128 := by
  rcases legalSc_cases h with h | h | h | h <;> omega

theorem quant_toNat (n d : Int) : ((quant n d).toNat : Int) = clamp (rnd n d) 0 4095 := by
  have h0 := clamp_ge (x := rnd n d) (lo := 0) (hi := 4095) (by decide)
  have h1 := clamp_le (x := rnd n d) (lo := 0) (hi := 4095) (by decide)
  rw [quant, BitVec.toNat_ofInt]
  norm_num
  omega

/-- rnd is the integer nearest to n / d, halves rounded up. -/
theorem rnd_spec {n d : Int} (hd : 0 < d) : 2 * d * rnd n d ≤ 2 * n + d ∧ 2 * n + d < 2 * d * (rnd n d + 1) := by
  unfold rnd fdiv
  have h1 := Int.mul_ediv_add_emod (2 * n + d) (2 * d)
  have h2 := Int.emod_nonneg (2 * n + d) (by omega : 2 * d ≠ 0)
  have h3 := Int.emod_lt_of_pos (2 * n + d) (by omega : 0 < 2 * d)
  constructor <;> [omega; (rw [mul_add]; omega)]

/-- A common positive factor of the two arguments of rnd cancels. -/
theorem rnd_scale (k n d : Int) (hk : 0 < k) : rnd (k * n) (k * d) = rnd n d := by
  unfold rnd fdiv
  rw [show 2 * (k * n) + k * d = k * (2 * n + d) by ring, show 2 * (k * d) = k * (2 * d) by ring]
  exact Int.mul_ediv_mul_of_pos _ _ hk

/-- A stored code does not fall when the numerator grows. -/
theorem quant_mono {n n' d : Int} (hd : 0 < d) (h : n ≤ n') : (quant n d).toNat ≤ (quant n' d).toNat := by
  have h' : clamp (rnd n d) 0 4095 ≤ clamp (rnd n' d) 0 4095 :=
    clamp_mono (by decide) (by unfold rnd fdiv; exact Int.ediv_le_ediv (by omega) (by omega))
  rw [← quant_toNat, ← quant_toNat] at h'
  exact_mod_cast h'

end Sys2Proof.Machine
end

