-- ==== Sys2Proof/Laws/State.lean ====
section
/-! SUPPORT. For each named update of the state, what every field holds after it. -/

namespace Sys2Proof.Machine

@[simp] theorem clearStrobes_build (s : State) : (clearStrobes s).build = s.build := rfl
@[simp] theorem clearStrobes_mode (s : State) : (clearStrobes s).mode = s.mode := rfl
@[simp] theorem clearStrobes_fieldCnt (s : State) : (clearStrobes s).fieldCnt = s.fieldCnt := rfl
@[simp] theorem clearStrobes_editCursor (s : State) : (clearStrobes s).editCursor = s.editCursor := rfl
@[simp] theorem clearStrobes_kind (s : State) : (clearStrobes s).kind = s.kind := rfl
@[simp] theorem clearStrobes_freq (s : State) : (clearStrobes s).freq = s.freq := rfl
@[simp] theorem clearStrobes_amp (s : State) : (clearStrobes s).amp = s.amp := rfl
@[simp] theorem clearStrobes_offs (s : State) : (clearStrobes s).offs = s.offs := rfl
@[simp] theorem clearStrobes_sc (s : State) : (clearStrobes s).sc = s.sc := rfl
@[simp] theorem clearStrobes_qdPrev (s : State) : (clearStrobes s).qdPrev = s.qdPrev := rfl
@[simp] theorem clearStrobes_interval (s : State) : (clearStrobes s).interval = s.interval := rfl
@[simp] theorem clearStrobes_runSc (s : State) : (clearStrobes s).runSc = s.runSc := rfl
@[simp] theorem clearStrobes_idx (s : State) : (clearStrobes s).idx = s.idx := rfl
@[simp] theorem clearStrobes_lastT (s : State) : (clearStrobes s).lastT = s.lastT := rfl
@[simp] theorem clearStrobes_lastDispT (s : State) : (clearStrobes s).lastDispT = s.lastDispT := rfl
@[simp] theorem clearStrobes_cfgPrev (s : State) : (clearStrobes s).cfgPrev = s.cfgPrev := rfl
@[simp] theorem clearStrobes_started (s : State) : (clearStrobes s).started = s.started := rfl
@[simp] theorem clearStrobes_dacCode (s : State) : (clearStrobes s).dacCode = s.dacCode := rfl
@[simp] theorem clearStrobes_buf (s : State) : (clearStrobes s).buf = s.buf := rfl
@[simp] theorem clearStrobes_dacWe (s : State) : (clearStrobes s).dacWe = false := rfl
@[simp] theorem clearStrobes_dispFull (s : State) : (clearStrobes s).dispFull = false := rfl
@[simp] theorem clearStrobes_dispValues (s : State) : (clearStrobes s).dispValues = false := rfl
@[simp] theorem clearStrobes_qdStep (s : State) : (clearStrobes s).qdStep = .zero := rfl
@[simp] theorem clearStrobes_nowUs (s : State) : (clearStrobes s).nowUs = s.nowUs := rfl
@[simp] theorem clearStrobes_stimulus (s : State) : (clearStrobes s).stimulus = s.stimulus := rfl

@[simp] theorem qdResult_build (st : Step) (b : Bool) (s : State) : (qdResult st b s).build = s.build := rfl
@[simp] theorem qdResult_mode (st : Step) (b : Bool) (s : State) : (qdResult st b s).mode = s.mode := rfl
@[simp] theorem qdResult_fieldCnt (st : Step) (b : Bool) (s : State) : (qdResult st b s).fieldCnt = s.fieldCnt := rfl
@[simp] theorem qdResult_editCursor (st : Step) (b : Bool) (s : State) : (qdResult st b s).editCursor = s.editCursor := rfl
@[simp] theorem qdResult_kind (st : Step) (b : Bool) (s : State) : (qdResult st b s).kind = s.kind := rfl
@[simp] theorem qdResult_freq (st : Step) (b : Bool) (s : State) : (qdResult st b s).freq = s.freq := rfl
@[simp] theorem qdResult_amp (st : Step) (b : Bool) (s : State) : (qdResult st b s).amp = s.amp := rfl
@[simp] theorem qdResult_offs (st : Step) (b : Bool) (s : State) : (qdResult st b s).offs = s.offs := rfl
@[simp] theorem qdResult_sc (st : Step) (b : Bool) (s : State) : (qdResult st b s).sc = s.sc := rfl
@[simp] theorem qdResult_qdPrev (st : Step) (b : Bool) (s : State) : (qdResult st b s).qdPrev = b := rfl
@[simp] theorem qdResult_interval (st : Step) (b : Bool) (s : State) : (qdResult st b s).interval = s.interval := rfl
@[simp] theorem qdResult_runSc (st : Step) (b : Bool) (s : State) : (qdResult st b s).runSc = s.runSc := rfl
@[simp] theorem qdResult_idx (st : Step) (b : Bool) (s : State) : (qdResult st b s).idx = s.idx := rfl
@[simp] theorem qdResult_lastT (st : Step) (b : Bool) (s : State) : (qdResult st b s).lastT = s.lastT := rfl
@[simp] theorem qdResult_lastDispT (st : Step) (b : Bool) (s : State) : (qdResult st b s).lastDispT = s.lastDispT := rfl
@[simp] theorem qdResult_cfgPrev (st : Step) (b : Bool) (s : State) : (qdResult st b s).cfgPrev = s.cfgPrev := rfl
@[simp] theorem qdResult_started (st : Step) (b : Bool) (s : State) : (qdResult st b s).started = s.started := rfl
@[simp] theorem qdResult_dacCode (st : Step) (b : Bool) (s : State) : (qdResult st b s).dacCode = s.dacCode := rfl
@[simp] theorem qdResult_buf (st : Step) (b : Bool) (s : State) : (qdResult st b s).buf = s.buf := rfl
@[simp] theorem qdResult_dacWe (st : Step) (b : Bool) (s : State) : (qdResult st b s).dacWe = s.dacWe := rfl
@[simp] theorem qdResult_dispFull (st : Step) (b : Bool) (s : State) : (qdResult st b s).dispFull = s.dispFull := rfl
@[simp] theorem qdResult_dispValues (st : Step) (b : Bool) (s : State) : (qdResult st b s).dispValues = s.dispValues := rfl
@[simp] theorem qdResult_qdStep (st : Step) (b : Bool) (s : State) : (qdResult st b s).qdStep = st := rfl
@[simp] theorem qdResult_nowUs (st : Step) (b : Bool) (s : State) : (qdResult st b s).nowUs = s.nowUs := rfl
@[simp] theorem qdResult_stimulus (st : Step) (b : Bool) (s : State) : (qdResult st b s).stimulus = s.stimulus := rfl

@[simp] theorem applyPresses_build (m f : Bool) (s : State) : (applyPresses m f s).build = s.build := rfl
@[simp] theorem applyPresses_mode (m f : Bool) (s : State) : (applyPresses m f s).mode = merge s.mode none m := rfl
@[simp] theorem applyPresses_fieldCnt (m f : Bool) (s : State) : (applyPresses m f s).fieldCnt = merge s.fieldCnt none f := rfl
@[simp] theorem applyPresses_editCursor (m f : Bool) (s : State) : (applyPresses m f s).editCursor = s.editCursor := rfl
@[simp] theorem applyPresses_kind (m f : Bool) (s : State) : (applyPresses m f s).kind = s.kind := rfl
@[simp] theorem applyPresses_freq (m f : Bool) (s : State) : (applyPresses m f s).freq = s.freq := rfl
@[simp] theorem applyPresses_amp (m f : Bool) (s : State) : (applyPresses m f s).amp = s.amp := rfl
@[simp] theorem applyPresses_offs (m f : Bool) (s : State) : (applyPresses m f s).offs = s.offs := rfl
@[simp] theorem applyPresses_sc (m f : Bool) (s : State) : (applyPresses m f s).sc = s.sc := rfl
@[simp] theorem applyPresses_qdPrev (m f : Bool) (s : State) : (applyPresses m f s).qdPrev = s.qdPrev := rfl
@[simp] theorem applyPresses_interval (m f : Bool) (s : State) : (applyPresses m f s).interval = s.interval := rfl
@[simp] theorem applyPresses_runSc (m f : Bool) (s : State) : (applyPresses m f s).runSc = s.runSc := rfl
@[simp] theorem applyPresses_idx (m f : Bool) (s : State) : (applyPresses m f s).idx = s.idx := rfl
@[simp] theorem applyPresses_lastT (m f : Bool) (s : State) : (applyPresses m f s).lastT = s.lastT := rfl
@[simp] theorem applyPresses_lastDispT (m f : Bool) (s : State) : (applyPresses m f s).lastDispT = s.lastDispT := rfl
@[simp] theorem applyPresses_cfgPrev (m f : Bool) (s : State) : (applyPresses m f s).cfgPrev = s.cfgPrev := rfl
@[simp] theorem applyPresses_started (m f : Bool) (s : State) : (applyPresses m f s).started = s.started := rfl
@[simp] theorem applyPresses_dacCode (m f : Bool) (s : State) : (applyPresses m f s).dacCode = s.dacCode := rfl
@[simp] theorem applyPresses_buf (m f : Bool) (s : State) : (applyPresses m f s).buf = s.buf := rfl
@[simp] theorem applyPresses_dacWe (m f : Bool) (s : State) : (applyPresses m f s).dacWe = s.dacWe := rfl
@[simp] theorem applyPresses_dispFull (m f : Bool) (s : State) : (applyPresses m f s).dispFull = s.dispFull := rfl
@[simp] theorem applyPresses_dispValues (m f : Bool) (s : State) : (applyPresses m f s).dispValues = s.dispValues := rfl
@[simp] theorem applyPresses_qdStep (m f : Bool) (s : State) : (applyPresses m f s).qdStep = s.qdStep := rfl
@[simp] theorem applyPresses_nowUs (m f : Bool) (s : State) : (applyPresses m f s).nowUs = s.nowUs := rfl
@[simp] theorem applyPresses_stimulus (m f : Bool) (s : State) : (applyPresses m f s).stimulus = s.stimulus := rfl

@[simp] theorem iterationFlags_build (s0 s : State) : (iterationFlags s0 s).build = s.build := rfl
@[simp] theorem iterationFlags_mode (s0 s : State) : (iterationFlags s0 s).mode = s.mode := rfl
@[simp] theorem iterationFlags_fieldCnt (s0 s : State) : (iterationFlags s0 s).fieldCnt = s.fieldCnt := rfl
@[simp] theorem iterationFlags_editCursor (s0 s : State) : (iterationFlags s0 s).editCursor = s.editCursor := rfl
@[simp] theorem iterationFlags_kind (s0 s : State) : (iterationFlags s0 s).kind = s.kind := rfl
@[simp] theorem iterationFlags_freq (s0 s : State) : (iterationFlags s0 s).freq = s.freq := rfl
@[simp] theorem iterationFlags_amp (s0 s : State) : (iterationFlags s0 s).amp = s.amp := rfl
@[simp] theorem iterationFlags_offs (s0 s : State) : (iterationFlags s0 s).offs = s.offs := rfl
@[simp] theorem iterationFlags_sc (s0 s : State) : (iterationFlags s0 s).sc = s.sc := rfl
@[simp] theorem iterationFlags_qdPrev (s0 s : State) : (iterationFlags s0 s).qdPrev = s.qdPrev := rfl
@[simp] theorem iterationFlags_interval (s0 s : State) : (iterationFlags s0 s).interval = s.interval := rfl
@[simp] theorem iterationFlags_runSc (s0 s : State) : (iterationFlags s0 s).runSc = s.runSc := rfl
@[simp] theorem iterationFlags_idx (s0 s : State) : (iterationFlags s0 s).idx = s.idx := rfl
@[simp] theorem iterationFlags_lastT (s0 s : State) : (iterationFlags s0 s).lastT = s.lastT := rfl
@[simp] theorem iterationFlags_lastDispT (s0 s : State) : (iterationFlags s0 s).lastDispT = s.lastDispT := rfl
@[simp] theorem iterationFlags_cfgPrev (s0 s : State) : (iterationFlags s0 s).cfgPrev = decide (s0.mode = 1#2) := rfl
@[simp] theorem iterationFlags_started (s0 s : State) : (iterationFlags s0 s).started = true := rfl
@[simp] theorem iterationFlags_dacCode (s0 s : State) : (iterationFlags s0 s).dacCode = s.dacCode := rfl
@[simp] theorem iterationFlags_buf (s0 s : State) : (iterationFlags s0 s).buf = s.buf := rfl
@[simp] theorem iterationFlags_dacWe (s0 s : State) : (iterationFlags s0 s).dacWe = s.dacWe := rfl
@[simp] theorem iterationFlags_dispFull (s0 s : State) : (iterationFlags s0 s).dispFull = (!s0.started || s.dispFull) := rfl
@[simp] theorem iterationFlags_dispValues (s0 s : State) : (iterationFlags s0 s).dispValues = s.dispValues := rfl
@[simp] theorem iterationFlags_qdStep (s0 s : State) : (iterationFlags s0 s).qdStep = s.qdStep := rfl
@[simp] theorem iterationFlags_nowUs (s0 s : State) : (iterationFlags s0 s).nowUs = s.nowUs := rfl
@[simp] theorem iterationFlags_stimulus (s0 s : State) : (iterationFlags s0 s).stimulus = s.stimulus := rfl

@[simp] theorem emitSample_build (s : State) : (emitSample s).build = s.build := rfl
@[simp] theorem emitSample_mode (s : State) : (emitSample s).mode = s.mode := rfl
@[simp] theorem emitSample_fieldCnt (s : State) : (emitSample s).fieldCnt = s.fieldCnt := rfl
@[simp] theorem emitSample_editCursor (s : State) : (emitSample s).editCursor = s.editCursor := rfl
@[simp] theorem emitSample_kind (s : State) : (emitSample s).kind = s.kind := rfl
@[simp] theorem emitSample_freq (s : State) : (emitSample s).freq = s.freq := rfl
@[simp] theorem emitSample_amp (s : State) : (emitSample s).amp = s.amp := rfl
@[simp] theorem emitSample_offs (s : State) : (emitSample s).offs = s.offs := rfl
@[simp] theorem emitSample_sc (s : State) : (emitSample s).sc = s.sc := rfl
@[simp] theorem emitSample_qdPrev (s : State) : (emitSample s).qdPrev = s.qdPrev := rfl
@[simp] theorem emitSample_interval (s : State) : (emitSample s).interval = s.interval := rfl
@[simp] theorem emitSample_runSc (s : State) : (emitSample s).runSc = s.runSc := rfl
@[simp] theorem emitSample_idx (s : State) : (emitSample s).idx = s.idx + 1#8 := rfl
@[simp] theorem emitSample_lastT (s : State) : (emitSample s).lastT = s.nowUs := rfl
@[simp] theorem emitSample_lastDispT (s : State) : (emitSample s).lastDispT = s.lastDispT := rfl
@[simp] theorem emitSample_cfgPrev (s : State) : (emitSample s).cfgPrev = s.cfgPrev := rfl
@[simp] theorem emitSample_started (s : State) : (emitSample s).started = s.started := rfl
@[simp] theorem emitSample_dacCode (s : State) : (emitSample s).dacCode = bufRead s (pollIndex s) := rfl
@[simp] theorem emitSample_buf (s : State) : (emitSample s).buf = s.buf := rfl
@[simp] theorem emitSample_dacWe (s : State) : (emitSample s).dacWe = true := rfl
@[simp] theorem emitSample_dispFull (s : State) : (emitSample s).dispFull = s.dispFull := rfl
@[simp] theorem emitSample_dispValues (s : State) : (emitSample s).dispValues = s.dispValues := rfl
@[simp] theorem emitSample_qdStep (s : State) : (emitSample s).qdStep = s.qdStep := rfl
@[simp] theorem emitSample_nowUs (s : State) : (emitSample s).nowUs = s.nowUs := rfl
@[simp] theorem emitSample_stimulus (s : State) : (emitSample s).stimulus = s.stimulus := rfl

@[simp] theorem finishCalculating_build (s : State) : (finishCalculating s).build = s.build := rfl
@[simp] theorem finishCalculating_mode (s : State) : (finishCalculating s).mode = 0#2 := rfl
@[simp] theorem finishCalculating_fieldCnt (s : State) : (finishCalculating s).fieldCnt = 0#4 := rfl
@[simp] theorem finishCalculating_editCursor (s : State) : (finishCalculating s).editCursor = 0#4 := rfl
@[simp] theorem finishCalculating_kind (s : State) : (finishCalculating s).kind = s.kind := rfl
@[simp] theorem finishCalculating_freq (s : State) : (finishCalculating s).freq = s.freq := rfl
@[simp] theorem finishCalculating_amp (s : State) : (finishCalculating s).amp = s.amp := rfl
@[simp] theorem finishCalculating_offs (s : State) : (finishCalculating s).offs = s.offs := rfl
@[simp] theorem finishCalculating_sc (s : State) : (finishCalculating s).sc = s.sc := rfl
@[simp] theorem finishCalculating_qdPrev (s : State) : (finishCalculating s).qdPrev = s.qdPrev := rfl
@[simp] theorem finishCalculating_interval (s : State) : (finishCalculating s).interval = s.interval := rfl
@[simp] theorem finishCalculating_runSc (s : State) : (finishCalculating s).runSc = s.sc := rfl
@[simp] theorem finishCalculating_idx (s : State) : (finishCalculating s).idx = s.idx := rfl
@[simp] theorem finishCalculating_lastT (s : State) : (finishCalculating s).lastT = s.lastT := rfl
@[simp] theorem finishCalculating_lastDispT (s : State) : (finishCalculating s).lastDispT = s.lastDispT := rfl
@[simp] theorem finishCalculating_cfgPrev (s : State) : (finishCalculating s).cfgPrev = s.cfgPrev := rfl
@[simp] theorem finishCalculating_started (s : State) : (finishCalculating s).started = s.started := rfl
@[simp] theorem finishCalculating_dacCode (s : State) : (finishCalculating s).dacCode = s.dacCode := rfl
@[simp] theorem finishCalculating_buf (s : State) : (finishCalculating s).buf = s.buf := rfl
@[simp] theorem finishCalculating_dacWe (s : State) : (finishCalculating s).dacWe = s.dacWe := rfl
@[simp] theorem finishCalculating_dispFull (s : State) : (finishCalculating s).dispFull = s.dispFull := rfl
@[simp] theorem finishCalculating_dispValues (s : State) : (finishCalculating s).dispValues = s.dispValues := rfl
@[simp] theorem finishCalculating_qdStep (s : State) : (finishCalculating s).qdStep = s.qdStep := rfl
@[simp] theorem finishCalculating_nowUs (s : State) : (finishCalculating s).nowUs = s.nowUs := rfl
@[simp] theorem finishCalculating_stimulus (s : State) : (finishCalculating s).stimulus = s.stimulus := rfl

@[simp] theorem configDisplay_build (s : State) : (configDisplay s).build = s.build := by
  unfold configDisplay; split <;> [rfl; (split <;> rfl)]
@[simp] theorem configDisplay_mode (s : State) : (configDisplay s).mode = s.mode := by
  unfold configDisplay; split <;> [rfl; (split <;> rfl)]
@[simp] theorem configDisplay_fieldCnt (s : State) : (configDisplay s).fieldCnt = s.fieldCnt := by
  unfold configDisplay; split <;> [rfl; (split <;> rfl)]
@[simp] theorem configDisplay_editCursor (s : State) : (configDisplay s).editCursor = s.editCursor := by
  unfold configDisplay; split <;> [rfl; (split <;> rfl)]
@[simp] theorem configDisplay_kind (s : State) : (configDisplay s).kind = s.kind := by
  unfold configDisplay; split <;> [rfl; (split <;> rfl)]
@[simp] theorem configDisplay_freq (s : State) : (configDisplay s).freq = s.freq := by
  unfold configDisplay; split <;> [rfl; (split <;> rfl)]
@[simp] theorem configDisplay_amp (s : State) : (configDisplay s).amp = s.amp := by
  unfold configDisplay; split <;> [rfl; (split <;> rfl)]
@[simp] theorem configDisplay_offs (s : State) : (configDisplay s).offs = s.offs := by
  unfold configDisplay; split <;> [rfl; (split <;> rfl)]
@[simp] theorem configDisplay_sc (s : State) : (configDisplay s).sc = s.sc := by
  unfold configDisplay; split <;> [rfl; (split <;> rfl)]
@[simp] theorem configDisplay_qdPrev (s : State) : (configDisplay s).qdPrev = s.qdPrev := by
  unfold configDisplay; split <;> [rfl; (split <;> rfl)]
@[simp] theorem configDisplay_interval (s : State) : (configDisplay s).interval = s.interval := by
  unfold configDisplay; split <;> [rfl; (split <;> rfl)]
@[simp] theorem configDisplay_runSc (s : State) : (configDisplay s).runSc = s.runSc := by
  unfold configDisplay; split <;> [rfl; (split <;> rfl)]
@[simp] theorem configDisplay_idx (s : State) : (configDisplay s).idx = s.idx := by
  unfold configDisplay; split <;> [rfl; (split <;> rfl)]
@[simp] theorem configDisplay_lastT (s : State) : (configDisplay s).lastT = s.lastT := by
  unfold configDisplay; split <;> [rfl; (split <;> rfl)]
@[simp] theorem configDisplay_cfgPrev (s : State) : (configDisplay s).cfgPrev = s.cfgPrev := by
  unfold configDisplay; split <;> [rfl; (split <;> rfl)]
@[simp] theorem configDisplay_started (s : State) : (configDisplay s).started = s.started := by
  unfold configDisplay; split <;> [rfl; (split <;> rfl)]
@[simp] theorem configDisplay_dacCode (s : State) : (configDisplay s).dacCode = s.dacCode := by
  unfold configDisplay; split <;> [rfl; (split <;> rfl)]
@[simp] theorem configDisplay_buf (s : State) : (configDisplay s).buf = s.buf := by
  unfold configDisplay; split <;> [rfl; (split <;> rfl)]
@[simp] theorem configDisplay_dacWe (s : State) : (configDisplay s).dacWe = s.dacWe := by
  unfold configDisplay; split <;> [rfl; (split <;> rfl)]
@[simp] theorem configDisplay_qdStep (s : State) : (configDisplay s).qdStep = s.qdStep := by
  unfold configDisplay; split <;> [rfl; (split <;> rfl)]
@[simp] theorem configDisplay_nowUs (s : State) : (configDisplay s).nowUs = s.nowUs := by
  unfold configDisplay; split <;> [rfl; (split <;> rfl)]
@[simp] theorem configDisplay_stimulus (s : State) : (configDisplay s).stimulus = s.stimulus := by
  unfold configDisplay; split <;> [rfl; (split <;> rfl)]

/-- The display deadline of R183 in numbers. -/
theorem dispPeriod_le_iff (s : State) :
    dispPeriodUs ≤ elapsed s.nowUs s.lastDispT ↔ 500000 ≤ (s.nowUs - s.lastDispT).toNat := Iff.rfl

@[simp] theorem configDisplay_dispFull (s : State) : (configDisplay s).dispFull = (s.dispFull || !s.cfgPrev) := by
  unfold configDisplay; split <;> [simp_all; (split <;> simp_all)]
@[simp] theorem configDisplay_dispValues (s : State) : (configDisplay s).dispValues =
    (s.dispValues || (s.cfgPrev && decide (500000 ≤ (s.nowUs - s.lastDispT).toNat))) := by
  unfold configDisplay; simp only [dispPeriod_le_iff]
  split <;> [simp_all; (split <;> simp_all)]
@[simp] theorem configDisplay_lastDispT (s : State) : (configDisplay s).lastDispT =
    (if s.cfgPrev = false ∨ 500000 ≤ (s.nowUs - s.lastDispT).toNat then s.nowUs else s.lastDispT) := by
  unfold configDisplay; simp only [dispPeriod_le_iff]
  split <;> [simp_all; (split <;> simp_all)]

end Sys2Proof.Machine
end

