-- ==== Sys2Proof/Laws/Ops.lean ====
section
/-! SUPPORT. For each shared operation, one lemma that says everything it can do. -/

namespace Sys2Proof.Machine

/-- A sequence answers a next state exactly when both parts do. -/
theorem andThen_next_iff {r : Result} {k : State → Result} {t : State} :
    andThen r k = .next t ↔ ∃ s, r = .next s ∧ k s = .next t := by
  cases r <;> simp [andThen]

/-- A sequence faults exactly when the first part does, or the second after it. -/
theorem andThen_fault_iff {r : Result} {k : State → Result} {f : Fault} :
    andThen r k = .fault f ↔ r = .fault f ∨ ∃ s, r = .next s ∧ k s = .fault f := by
  cases r <;> simp [andThen]

@[simp] theorem andThen_next (s : State) (k : State → Result) : andThen (.next s) k = k s := rfl

@[simp] theorem andThen_fault (f : Fault) (k : State → Result) : andThen (.fault f) k = .fault f := rfl

@[simp] theorem andThen_refused (r : Refusal) (k : State → Result) : andThen (.refused r) k = .refused r := rfl

@[simp] theorem orFault_ok {α : Type} (a : α) (k : α → Result) : orFault (.ok a) k = k a := rfl

@[simp] theorem orFault_error {α : Type} (f : Fault) (k : α → Result) : orFault (.error f) k = .fault f := rfl

/-- `orFault` answers a next state exactly when its value is there and the rest does. -/
theorem orFault_next_iff {α : Type} {e : Except Fault α} {k : α → Result} {t : State} :
    orFault e k = .next t ↔ ∃ a, e = .ok a ∧ k a = .next t := by
  cases e <;> simp [orFault]

/-- The state that a parameter write leaves. -/
def withParams (p : Params) (s : State) : State :=
  { s with kind := p.kind, freq := BitVec.ofInt 16 p.freq, amp := BitVec.ofInt 32 p.amp,
           offs := BitVec.ofInt 32 p.offs, sc := BitVec.ofNat 8 p.sc }

/-- A parameter write answers a next state exactly when every value fits its register. -/
theorem writeParams_next_iff {p : Params} {s t : State} :
    writeParams p s = .next t ↔
      fitsSigned 16 p.freq = true ∧ fitsSigned 32 p.amp = true ∧ fitsSigned 32 p.offs = true ∧ t = withParams p s := by
  unfold writeParams
  cases h1 : fitsSigned 16 p.freq
  · simp
  cases h2 : fitsSigned 32 p.amp
  · simp
  cases h3 : fitsSigned 32 p.offs
  · simp
  simp only [if_true, true_and, Host.Outcome.next.injEq]
  exact eq_comm

/-- The parameters read back after a write that fits. -/
theorem paramsOf_withParams {p : Params} (s : State) (h1 : fitsSigned 16 p.freq = true) (h2 : fitsSigned 32 p.amp = true)
    (h3 : fitsSigned 32 p.offs = true) (h4 : p.sc < 256) : paramsOf (withParams p s) = p := by
  simp [paramsOf, withParams, toInt_ofInt_of_fits (by decide) h1, toInt_ofInt_of_fits (by decide) h2,
    toInt_ofInt_of_fits (by decide) h3, Nat.mod_eq_of_lt h4]

/-- Writing the parameters a state holds changes nothing. -/
theorem withParams_paramsOf (s : State) : withParams (paramsOf s) s = s := by
  simp [withParams, paramsOf]

/-- A parameter write changes the parameter registers only. -/
theorem writeParams_same (s : State) : writeParams (paramsOf s) s = .next s := by
  rw [writeParams_next_iff]
  exact ⟨fitsSigned_toInt16 _, fitsSigned_toInt32 _, fitsSigned_toInt32 _, (withParams_paramsOf s).symm⟩

/-- Everything `fillBuf` can do on a canonical buffer. -/
theorem fillBuf_spec (f : Nat → Code) {s : State} (hb : s.buf.wf = true) :
    (legalSc s.sc.toNat = false → fillBuf f s = .fault .illegalSampleCount) ∧
    (legalSc s.sc.toNat = true → ∃ m : Memory, fillBuf f s = .next { s with buf := m } ∧ m.wf = true ∧
      ∀ i, m.read i = if i < s.sc.toNat then f i else s.buf.read i) := by
  constructor
  · intro h; simp [fillBuf, h]
  · intro h
    have h128 := (legalSc_le h).2
    exact ⟨_, by simp [fillBuf, h], Memory.writeTable_wf f hb h128, fun i => Memory.read_writeTable f hb i h128⟩

@[simp] theorem merge_none_false {n : Nat} (c : BitVec n) : merge c none false = c := by simp [merge]

@[simp] theorem merge_none_true {n : Nat} (c : BitVec n) : merge c none true = c + 1#n := by simp [merge]

/-- Merge as R173 writes it, on numbers. -/
theorem merge_toNat {n : Nat} (hn : 0 < n) (c : BitVec n) (w : Option (BitVec n)) (ev : Bool) :
    (merge c w ev).toNat = ((w.getD c).toNat + ev.toNat) % 2 ^ n := by
  have h1 : 1 % 2 ^ n = 1 := Nat.mod_eq_of_lt (Nat.one_lt_two_pow (by omega))
  cases ev <;> simp [merge, BitVec.toNat_add, h1]

/-- The generator that KIND selects fills the table with Gen of R135. -/
theorem runGenerator_eq (s : State) :
    runGenerator s = fillBuf (genCode (vref s.build) s.kind s.amp.toInt s.offs.toInt s.sc.toNat) s := by
  unfold runGenerator genCode
  split <;> rfl

end Sys2Proof.Machine
end

