-- ==== Sys2Proof/Laws/Editor.lean ====
section
/-! SUPPORT. What the edit, the saturation pass and the cursor derivation can do. -/

namespace Sys2Proof.Machine

theorem build_ranges (b : Config.ValidBuild) :
    (1 ≤ b.val.vrefU ∧ b.val.vrefU ≤ 300000) ∧ (8 ≤ b.val.gmaxHz ∧ b.val.gmaxHz ≤ 32000) ∧
    (1 ≤ b.val.tcNum ∧ b.val.tcNum < b.val.tcDen ∧ b.val.tcDen ≤ 65536) ∧
    (b.val.initSc = 16 ∨ b.val.initSc = 32 ∨ b.val.initSc = 64 ∨ b.val.initSc = 128) ∧
    (1 ≤ b.val.initFreq ∧ b.val.initFreq ≤ b.val.gmaxHz / (b.val.initSc / 16)) ∧
    b.val.initAmp ≤ b.val.vrefU ∧ b.val.initOffs ≤ b.val.vrefU := by
  simpa [Config.Build.valid, and_assoc] using b.property

/-- fmax lies in [1, 32000] for every legal sample count (R125). -/
theorem fmax_range (b : Config.ValidBuild) {n : Nat} (h : legalSc n = true) : 1 ≤ fmax b n ∧ fmax b n ≤ 32000 := by
  obtain ⟨_, ⟨h1, h2⟩, _⟩ := build_ranges b
  unfold fmax fdiv
  rcases legalSc_cases h with rfl | rfl | rfl | rfl <;> norm_num <;> omega

/-- P_VREF_U lies in [1, 300000] (R7). -/
theorem vref_range (b : Config.ValidBuild) : 1 ≤ vref b ∧ vref b ≤ 300000 := by
  obtain ⟨⟨h1, h2⟩, _⟩ := build_ranges b
  unfold vref; omega

/-- Everything the saturation pass can do: with n the sample count after its clause, it faults when n is illegal and
otherwise returns clamped parameters that fit their registers. -/
theorem sat_spec (b : Config.ValidBuild) (p : Params) :
    (legalSc (max p.sc 16) = false → sat b p = .error .illegalSampleCount) ∧
    (legalSc (max p.sc 16) = true → ∃ q, sat b p = .ok q ∧ q.kind = p.kind ∧ q.sc = max p.sc 16 ∧
      q.freq = clamp p.freq 1 (fmax b q.sc) ∧ q.amp = clamp p.amp 0 (vref b) ∧ q.offs = clamp p.offs 0 (vref b) ∧
      (1 ≤ q.freq ∧ q.freq ≤ fmax b q.sc) ∧ (0 ≤ q.amp ∧ q.amp ≤ vref b) ∧ (0 ≤ q.offs ∧ q.offs ≤ vref b) ∧
      fitsSigned 16 q.freq = true ∧ fitsSigned 32 q.amp = true ∧ fitsSigned 32 q.offs = true) := by
  have hmax : (if p.sc < 16 then 16 else p.sc) = max p.sc 16 := by split <;> omega
  constructor
  · intro h; simp [sat, hmax, h]
  · intro h
    obtain ⟨hf1, hf2⟩ := fmax_range b h
    obtain ⟨hv1, hv2⟩ := vref_range b
    refine ⟨⟨p.kind, clamp p.freq 1 (fmax b (max p.sc 16)), clamp p.amp 0 (vref b), clamp p.offs 0 (vref b), max p.sc 16⟩,
      by simp only [sat, hmax, h, if_true], rfl, rfl, rfl, rfl, rfl, ?_, ?_, ?_, ?_, ?_, ?_⟩
    · exact ⟨clamp_ge (by omega), clamp_le (by omega)⟩
    · exact ⟨clamp_ge (by omega), clamp_le (by omega)⟩
    · exact ⟨clamp_ge (by omega), clamp_le (by omega)⟩
    all_goals
      rw [fitsSigned_iff]
      norm_num
    · have := clamp_ge (x := p.freq) hf1; have := clamp_le (x := p.freq) hf1; omega
    · have := clamp_ge (x := p.amp) (by omega : 0 ≤ vref b); have := clamp_le (x := p.amp) (by omega : 0 ≤ vref b); omega
    · have := clamp_ge (x := p.offs) (by omega : 0 ≤ vref b); have := clamp_le (x := p.offs) (by omega : 0 ≤ vref b); omega

/-- SATURATE answers a next state exactly when the pass does, with the pass's parameters in the registers. -/
theorem execSaturate_next_iff {s t : State} :
    execSaturate s = .next t ↔ ∃ q, sat s.build (paramsOf s) = .ok q ∧ t = withParams q s := by
  unfold execSaturate
  rw [orFault_next_iff]
  constructor
  · rintro ⟨q, hq, hw⟩
    exact ⟨q, hq, (writeParams_next_iff.mp hw).2.2.2⟩
  · rintro ⟨q, hq, rfl⟩
    have hl : legalSc (max (paramsOf s).sc 16) = true := by
      by_contra hc
      rw [(sat_spec s.build (paramsOf s)).1 (by simpa using hc)] at hq
      cases hq
    obtain ⟨q', hq', _, _, _, _, _, _, _, _, h1, h2, h3⟩ := (sat_spec s.build (paramsOf s)).2 hl
    rw [hq] at hq'; cases hq'
    exact ⟨q, hq, writeParams_next_iff.mpr ⟨h1, h2, h3, rfl⟩⟩

/-- An edit of a legal cursor on a legal sample count returns parameters with a legal sample count (R111, R122). -/
theorem edit_ok (p : Params) {c : BitVec 4} (st : Step) (hc : c ≤ 9#4) (hs : legalSc p.sc = true) :
    ∃ q, edit p c st = .ok q ∧ legalSc q.sc = true := by
  have hc' : c.toNat ≤ 9 := hc
  unfold edit
  have hcase : c.toNat = 0 ∨ c.toNat = 1 ∨ c.toNat = 2 ∨ c.toNat = 3 ∨ c.toNat = 4 ∨ c.toNat = 5 ∨ c.toNat = 6 ∨
    c.toNat = 7 ∨ c.toNat = 8 ∨ c.toNat = 9 := by omega
  rcases hcase with h | h | h | h | h | h | h | h | h | h <;> rw [h]
  all_goals try exact ⟨_, rfl, hs⟩
  refine ⟨{ p with sc := scStep p.sc st }, by simp [editScField, hs], ?_⟩
  rcases legalSc_cases hs with h | h | h | h <;> cases st <;> simp [scStep, h, legalSc]

/-- The derived cursor is the counter modulo 10, redirected (R181). -/
theorem deriveCursor_fst (fc : BitVec 4) (kind : BitVec 2) :
    (deriveCursor fc kind).1 = redirect kind (fc % 10#4) := by
  revert fc kind; decide

/-- What the derivation leaves in FIELD_CNT is the derived cursor (R181). -/
theorem deriveCursor_counter (fc : BitVec 4) (kind : BitVec 2) :
    (deriveCursor fc kind).2.getD fc = (deriveCursor fc kind).1 := by
  revert fc kind; decide

/-- The derived cursor is legal (R181). -/
theorem deriveCursor_le (fc : BitVec 4) (kind : BitVec 2) : (deriveCursor fc kind).1 ≤ 9#4 := by
  revert fc kind; decide

end Sys2Proof.Machine
end

