-- ==== Sys2Proof/Laws/Mode.lean ====
section
/-! SUPPORT. Everything the poll, the mode operations and an iterating cycle can do: one inversion lemma each. -/

namespace Sys2Proof.Machine

/-- The index of a poll is IDX modulo a legal RUN_SC (R160). -/
theorem pollIndex_toNat {s : State} (h : legalSc s.runSc.toNat = true) :
    (pollIndex s).toNat = s.idx.toNat % s.runSc.toNat := by
  have key : ∀ r : BitVec 8, legalSc r.toNat = true →
      ∀ i : BitVec 8, ((i &&& (r - 1#8)).setWidth 7).toNat = i.toNat % r.toNat := by
    intro r hr
    rcases legalSc_cases hr with h | h | h | h
    · obtain rfl : r = 16#8 := BitVec.eq_of_toNat_eq h
      decide
    · obtain rfl : r = 32#8 := BitVec.eq_of_toNat_eq h
      decide
    · obtain rfl : r = 64#8 := BitVec.eq_of_toNat_eq h
      decide
    · obtain rfl : r = 128#8 := BitVec.eq_of_toNat_eq h
      decide
  exact key s.runSc h s.idx

/-- A poll answers exactly when RUN_SC is legal: with the emission at or after the deadline, without it before. -/
theorem execSchedPoll_next_iff {s t : State} :
    execSchedPoll s = .next t ↔
      legalSc s.runSc.toNat = true ∧
      t = (if s.interval ≤ elapsed s.nowUs s.lastT then emitSample s else { s with dacWe := false }) := by
  unfold execSchedPoll
  cases legalSc s.runSc.toNat
  · simp
  · simp only [if_true, true_and]
    split <;> simp [eq_comm]

/-- What the saturation pass returns is read back from the registers it is written to. -/
theorem paramsOf_sat {b : Config.ValidBuild} {p q : Params} (h : sat b p = .ok q) (s : State) :
    paramsOf (withParams q s) = q ∧ legalSc q.sc = true := by
  have hl : legalSc (max p.sc 16) = true := by
    by_contra hc
    rw [(sat_spec b p).1 (by simpa using hc)] at h
    cases h
  obtain ⟨q', hq', _, hsc, _, _, _, _, _, _, h1, h2, h3⟩ := (sat_spec b p).2 hl
  rw [h] at hq'; cases hq'
  rw [← hsc] at hl
  exact ⟨paramsOf_withParams s h1 h2 h3 (by have := (legalSc_le hl).2; omega), hl⟩

/-- A Configuring iteration answers exactly when the edit and the saturation pass do (R180). -/
theorem execIterConfiguring_next_iff {s t : State} :
    execIterConfiguring s = .next t ↔
      ∃ p q, edit (paramsOf s) (deriveCursor s.fieldCnt s.kind).1 s.qdStep = .ok p ∧ sat s.build p = .ok q ∧
        t = configDisplay { withParams q s with
          editCursor := (deriveCursor s.fieldCnt s.kind).1, fieldCnt := (deriveCursor s.fieldCnt s.kind).1 } := by
  have hc := deriveCursor_counter s.fieldCnt s.kind
  unfold execIterConfiguring
  simp only [orFault_next_iff, andThen_next_iff, hc, writeParams_next_iff]
  constructor
  · rintro ⟨p, hp, q, hq, s1, ⟨_, _, _, rfl⟩, ht⟩
    exact ⟨p, q, hp, hq, by cases ht; rfl⟩
  · rintro ⟨p, q, hp, hq, rfl⟩
    have hl : legalSc (max p.sc 16) = true := by
      by_contra hcn
      rw [(sat_spec s.build p).1 (by simpa using hcn)] at hq
      cases hq
    obtain ⟨q', hq', _, _, _, _, _, _, _, _, h1, h2, h3⟩ := (sat_spec s.build p).2 hl
    rw [hq] at hq'; cases hq'
    exact ⟨p, hp, q, hq, _, ⟨h1, h2, h3, rfl⟩, rfl⟩

/-- The state that a Calculating iteration leaves, q being the saturated parameters (R185). -/
def calculated (q : Params) (s : State) : State :=
  { withParams q s with
    buf := Memory.writeTable (genCode (vref s.build) q.kind q.amp q.offs q.sc) q.sc s.buf
    interval := intervalOf s.build q.freq q.sc
    runSc := BitVec.ofNat 8 q.sc
    editCursor := 0#4
    mode := 0#2
    fieldCnt := 0#4 }

/-- A Calculating iteration answers exactly when the saturation pass does (R185). -/
theorem execIterCalculating_next_iff {s t : State} :
    execIterCalculating s = .next t ↔ ∃ q, sat s.build (paramsOf s) = .ok q ∧ t = calculated q s := by
  have key : ∀ q, sat s.build (paramsOf s) = .ok q →
      andThen (runGenerator (withParams q s)) (fun s2 => andThen (execInterval s2) fun s3 => .next (finishCalculating s3)) =
        .next (calculated q s) := by
    intro q hq
    obtain ⟨hp, hl⟩ := paramsOf_sat hq s
    have hsc : (withParams q s).sc.toNat = q.sc := congrArg Params.sc hp
    have ha : (withParams q s).amp.toInt = q.amp := congrArg Params.amp hp
    have ho : (withParams q s).offs.toInt = q.offs := congrArg Params.offs hp
    have hf : (withParams q s).freq.toInt = q.freq := congrArg Params.freq hp
    rw [runGenerator_eq, fillBuf, hsc, if_pos hl, andThen_next, execInterval]
    simp only [hsc, hl, if_true, andThen_next, ha, ho, hf]
    rfl
  unfold execIterCalculating
  rw [andThen_next_iff]
  constructor
  · rintro ⟨s1, h1, h2⟩
    obtain ⟨q, hq, rfl⟩ := execSaturate_next_iff.mp h1
    rw [key q hq] at h2
    exact ⟨q, hq, by cases h2; rfl⟩
  · rintro ⟨q, hq, rfl⟩
    exact ⟨_, execSaturate_next_iff.mpr ⟨q, hq, rfl⟩, key q hq⟩

/-- The step of the decoder (R100). -/
def stepOf (prev clk data : Bool) : Step :=
  if prev = true ∧ clk = false then (if data then .plus else .minus) else .zero

/-- The decoder always answers, with the step and the clock level (R100). -/
theorem runDecoder_eq (c d : Bool) (s : State) : runDecoder c d s = .next (qdResult (stepOf s.qdPrev c d) c s) := by
  unfold runDecoder
  cases s.qdPrev <;> cases c <;> cases d <;> rfl

/-- The state on which the mode operation of an iterating cycle runs. -/
def sampled (c d : Bool) (now : BitVec 32) (s : State) : State :=
  qdResult (stepOf s.qdPrev c d) c { clearStrobes s with nowUs := now }

/-- An iterating cycle is its mode operation on the sampled state, then the flags and the presses (R176). -/
theorem execCycIterate_eq (m f c d : Bool) (now : BitVec 32) (s : State) :
    execCycIterate m f c d now s =
      andThen (runMode (sampled c d now s)) fun s2 => .next (applyPresses m f (iterationFlags s s2)) := by
  unfold execCycIterate
  rw [runDecoder_eq]
  rfl

/-- The four modes (R75). -/
theorem mode_cases (v : BitVec 2) : v = 0#2 ∨ v = 1#2 ∨ v = 2#2 ∨ v = 3#2 := by
  revert v; decide

theorem runMode_running {s : State} (h : s.mode = 0#2) : runMode s = execSchedPoll s := by
  unfold runMode; rw [h]; rfl

theorem runMode_configuring {s : State} (h : s.mode = 1#2) : runMode s = execIterConfiguring s := by
  unfold runMode; rw [h]; rfl

theorem runMode_calculating {s : State} (h : s.mode = 2#2) : runMode s = execIterCalculating s := by
  unfold runMode; rw [h]; rfl

theorem runMode_invalid {s : State} (h : s.mode = 3#2) : runMode s = .next { s with mode := 2#2 } := by
  unfold runMode; rw [h]; rfl

/-- No mode operation refuses. -/
theorem runMode_not_refused (s : State) (r : Refusal) : runMode s ≠ .refused r := by
  have hw : ∀ p s, writeParams p s ≠ .refused r := by
    intro p s; unfold writeParams; split <;> [(split <;> [(split <;> simp); simp]); simp]
  have hf : ∀ g s, fillBuf g s ≠ .refused r := by intro g s; unfold fillBuf; split <;> simp
  have ha : ∀ (x : Result) k, x ≠ .refused r → (∀ s, k s ≠ .refused r) → andThen x k ≠ .refused r := by
    intro x k hx hk; cases x <;> simp_all [andThen]
  have ho : ∀ {α : Type} (e : Except Fault α) k, (∀ a, k a ≠ .refused r) → orFault e k ≠ .refused r := by
    intro α e k hk; cases e <;> simp_all [orFault]
  rcases mode_cases s.mode with h | h | h | h
  · rw [runMode_running h]; unfold execSchedPoll; split <;> [(split <;> simp); simp]
  · rw [runMode_configuring h]; unfold execIterConfiguring
    exact ho _ _ fun p => ho _ _ fun q => ha _ _ (hw _ _) fun s => by simp
  · rw [runMode_calculating h]; unfold execIterCalculating
    refine ha _ _ (ho _ _ fun p => hw _ _) fun s => ha _ _ ?_ fun s => ha _ _ ?_ fun s => by simp
    · rw [runGenerator_eq]; exact hf _ _
    · unfold execInterval; split <;> simp
  · rw [runMode_invalid h]; simp

end Sys2Proof.Machine
end

