-- ==== Sys2Proof/Laws/Cycle.lean ====
section
/-! SUPPORT. What a cycle, a step and a run can do. -/

namespace Sys2Proof.Machine

/-- The four things a mode operation can do (R179, R180, R185, R187). -/
theorem runMode_inv {s s2 : State} (h : runMode s = .next s2) :
    (s.mode = 0#2 ∧ legalSc s.runSc.toNat = true ∧
      s2 = (if s.interval ≤ elapsed s.nowUs s.lastT then emitSample s else { s with dacWe := false })) ∨
    (s.mode = 1#2 ∧ ∃ p q, edit (paramsOf s) (deriveCursor s.fieldCnt s.kind).1 s.qdStep = .ok p ∧
      sat s.build p = .ok q ∧
      s2 = configDisplay { withParams q s with
        editCursor := (deriveCursor s.fieldCnt s.kind).1, fieldCnt := (deriveCursor s.fieldCnt s.kind).1 }) ∨
    (s.mode = 2#2 ∧ ∃ q, sat s.build (paramsOf s) = .ok q ∧ s2 = calculated q s) ∨
    (s.mode = 3#2 ∧ s2 = { s with mode := 2#2 }) := by
  rcases mode_cases s.mode with hm | hm | hm | hm
  · rw [runMode_running hm, execSchedPoll_next_iff] at h; exact .inl ⟨hm, h⟩
  · rw [runMode_configuring hm, execIterConfiguring_next_iff] at h; exact .inr (.inl ⟨hm, h⟩)
  · rw [runMode_calculating hm, execIterCalculating_next_iff] at h; exact .inr (.inr (.inl ⟨hm, h⟩))
  · rw [runMode_invalid hm] at h; cases h; exact .inr (.inr (.inr ⟨hm, rfl⟩))

/-- An iterating cycle that answers is a mode operation that answers, then the flags and the presses. -/
theorem exec_cycIterate_inv {s t : State} {m f c d : Bool} {now : BitVec 32}
    (h : exec (.cycIterate m f c d now) s = .next t) :
    ∃ s2, runMode (sampled c d now s) = .next s2 ∧ t = applyPresses m f (iterationFlags s s2) := by
  have h' : execCycIterate m f c d now s = .next t := h
  rw [execCycIterate_eq, andThen_next_iff] at h'
  obtain ⟨s2, h1, h2⟩ := h'
  exact ⟨s2, h1, by cases h2; rfl⟩

/-- A legal sample count is all that a Configuring iteration needs. -/
theorem execIterConfiguring_ok {s : State} (h : legalSc s.sc.toNat = true) : ∃ t, execIterConfiguring s = .next t := by
  obtain ⟨p, hp, hl⟩ := edit_ok (paramsOf s) s.qdStep (deriveCursor_le s.fieldCnt s.kind) h
  have hl' : legalSc (max p.sc 16) = true := by have := legalSc_le hl; rwa [max_eq_left this.1]
  obtain ⟨q, hq, _⟩ := (sat_spec s.build p).2 hl'
  exact ⟨_, execIterConfiguring_next_iff.mpr ⟨p, q, hp, hq, rfl⟩⟩

/-- A sample count that the saturation pass accepts is all that a Calculating iteration needs. -/
theorem execIterCalculating_ok {s : State} (h : legalSc (max s.sc.toNat 16) = true) :
    ∃ t, execIterCalculating s = .next t := by
  obtain ⟨q, hq, _⟩ := (sat_spec s.build (paramsOf s)).2 h
  exact ⟨_, execIterCalculating_next_iff.mpr ⟨q, hq, rfl⟩⟩

/-- Legal sample counts are all that a mode operation needs. -/
theorem runMode_ok {s : State} (h : legalSc s.sc.toNat = true) (h2 : legalSc s.runSc.toNat = true) :
    ∃ t, runMode s = .next t := by
  rcases mode_cases s.mode with hm | hm | hm | hm
  · rw [runMode_running hm]; exact ⟨_, execSchedPoll_next_iff.mpr ⟨h2, rfl⟩⟩
  · rw [runMode_configuring hm]; exact execIterConfiguring_ok h
  · rw [runMode_calculating hm]
    exact execIterCalculating_ok (by rwa [max_eq_left (legalSc_le h).1])
  · rw [runMode_invalid hm]; exact ⟨_, rfl⟩

/-- Where a step fetches an operation it runs it. -/
theorem step_eq_exec {s : State} {w : Word} {rest : List Word} {i : Instr} (hs : s.stimulus = w :: rest)
    (hd : decodeProgramWord w = .ok i) : step s = exec i { s with stimulus := rest } := by
  simp [step, fetch, hs, hd]

/-- A step that answers ran the operation of the next input bundle. -/
theorem step_next_inv {s t : State} (h : step s = .next t) :
    ∃ w rest i, s.stimulus = w :: rest ∧ decodeProgramWord w = .ok i ∧ exec i { s with stimulus := rest } = .next t := by
  cases hs : s.stimulus with
  | nil => simp [step, fetch, hs] at h
  | cons w rest =>
    cases hd : decodeProgramWord w with
    | error e => simp [step, fetch, hs, hd] at h
    | ok i =>
      rw [step_eq_exec hs hd] at h
      exact ⟨w, rest, i, rfl, hd, h⟩

/-- What an input bundle decodes to is a cycle operation (R82). -/
theorem decodeProgramWord_cycle {w : Word} {i : Instr} (h : decodeProgramWord w = .ok i) :
    (∃ g, i = .cycReset g) ∨ (∃ m f c d now, i = .cycIterate m f c d now) ∨ (∃ f g, i = .cycModePress f g) ∨
    (∃ g, i = .cycFieldPress g) ∨ (∃ g, i = .cycIdle g) := by
  have hlt : w.toNat < 2 ^ 38 := by
    by_contra hc
    rw [show decodeProgramWord w = decode ⟨.in38, w⟩ from rfl, decode_in38_above (by omega)] at h
    cases h
  rw [show decodeProgramWord w = decode ⟨.in38, w⟩ from rfl, decode_in38 hlt, Except.ok.injEq] at h
  subst h
  unfold decodeIn38
  split <;> [exact .inl ⟨_, rfl⟩; skip]
  split <;> [exact .inr (.inl ⟨_, _, _, _, _, rfl⟩); skip]
  split <;> [exact .inr (.inr (.inl ⟨_, _, rfl⟩)); skip]
  split <;> [exact .inr (.inr (.inr (.inl ⟨_, rfl⟩))); exact .inr (.inr (.inr (.inr ⟨_, rfl⟩)))]

/-- A run goes on from the state its first cycle leaves. -/
theorem run_of_next {n : Nat} {s s' : State} (h : step s = .next s') : run (n + 1) s = run n s' := by
  rw [run, h]; rfl

/-- A run that faults does so in its first cycle, or after it. -/
theorem run_fault_iff {n : Nat} {s : State} {f : Fault} :
    run (n + 1) s = .fault f ↔ step s = .fault f ∨ ∃ s', step s = .next s' ∧ run n s' = .fault f := by
  rw [run, andThen_fault_iff]

/-- One cycle of a run of any machine. -/
theorem host_run_succ (M : Host.Core) (n : Nat) (s : M.State) :
    M.run (n + 1) s =
      (match M.step s with
        | .next s' => M.run n s'
        | .fault r => .fault r
        | .refused r => .refused r) := by
  rfl

/-- The model's runs are the host's. -/
theorem run_eq_host : ∀ (n : Nat) (s : State), run n s = Host.Core.run Sys2Proof.core n s
  | 0, _ => rfl
  | n + 1, s => by
    refine Eq.trans ?_ (host_run_succ Sys2Proof.core n s).symm
    have hc : Sys2Proof.core.step s = step s := rfl
    rw [run]
    cases h : step s with
    | next s' => rw [hc.trans h]; exact run_eq_host n s'
    | fault r => rw [hc.trans h]; rfl
    | refused r => rw [hc.trans h]; rfl

end Sys2Proof.Machine
end

