-- ==== Sys2Proof/Laws/Params.lean ====
section
/-! SUPPORT. What an edit and a saturation pass leave of parameters in their valid range. -/

namespace Sys2Proof.Machine

/-- A parameter tuple that fits its registers is written. -/
theorem writeParams_of_fits {p : Params} {s : State} (h1 : fitsSigned 16 p.freq = true)
    (h2 : fitsSigned 32 p.amp = true) (h3 : fitsSigned 32 p.offs = true) :
    writeParams p s = .next (withParams p s) :=
  writeParams_next_iff.mpr ⟨h1, h2, h3, rfl⟩

/-- The registers hold parameters in their valid range after a saturation pass (R127). -/
theorem inRange_of_sat {b : Config.ValidBuild} {p q : Params} (h : sat b p = .ok q) {s : State} (hb : s.build = b) :
    ParamsInRange (withParams q s) := by
  obtain ⟨hp, hl⟩ := paramsOf_sat h s
  have hl2 : legalSc (max p.sc 16) = true := by
    by_contra hc
    rw [(sat_spec b p).1 (by simpa using hc)] at h; cases h
  obtain ⟨q', hq', _, _, _, _, _, hfr, har, hor, _⟩ := (sat_spec b p).2 hl2
  rw [h] at hq'; cases hq'
  have e1 : (withParams q s).sc.toNat = q.sc := congrArg Params.sc hp
  have e2 : (withParams q s).amp.toInt = q.amp := congrArg Params.amp hp
  have e3 : (withParams q s).offs.toInt = q.offs := congrArg Params.offs hp
  have e4 : (withParams q s).freq.toInt = q.freq := congrArg Params.freq hp
  simp only [ParamsInRange, e1, e2, e3, e4]
  subst hb
  exact ⟨hl, hfr.1, hfr.2, har.1, har.2, hor.1, hor.2⟩

/-- An edit of parameters in their valid range fits their registers, and keeps the sample count legal. -/
theorem edit_fits {s : State} (hr : ParamsInRange s) {c : BitVec 4} (st : Step) {p : Params}
    (h : edit (paramsOf s) c st = .ok p) :
    fitsSigned 16 p.freq = true ∧ fitsSigned 32 p.amp = true ∧ fitsSigned 32 p.offs = true ∧ p.sc < 256 ∧
      legalSc p.sc = true := by
  obtain ⟨h0, h1, h2, h3, h4, h5, h6⟩ := hr
  have hf := fmax_range s.build h0
  have hv := vref_range s.build
  have hst : st.toInt = 0 ∨ st.toInt = 1 ∨ st.toInt = -1 := by cases st <;> simp [Step.toInt]
  have key : ∀ q : Params, (-10 ≤ q.freq - s.freq.toInt ∧ q.freq - s.freq.toInt ≤ 10) →
      (-10000 ≤ q.amp - s.amp.toInt ∧ q.amp - s.amp.toInt ≤ 10000) →
      (-10000 ≤ q.offs - s.offs.toInt ∧ q.offs - s.offs.toInt ≤ 10000) → q.sc < 256 → legalSc q.sc = true →
      fitsSigned 16 q.freq = true ∧ fitsSigned 32 q.amp = true ∧ fitsSigned 32 q.offs = true ∧ q.sc < 256 ∧
        legalSc q.sc = true := by
    intro q ha hb hc hd he
    refine ⟨?_, ?_, ?_, hd, he⟩ <;> rw [fitsSigned_iff] <;> norm_num <;> omega
  unfold edit at h
  split at h
  all_goals first | (cases h; done) | skip
  all_goals
    try
      (cases h
       apply key <;>
         simp [editKindField, editFreqField, editAmpField, editOffsField, editDelta, multAt, mult, paramsOf] <;>
         omega)
  unfold editScField at h
  split at h
  · cases h
    rename_i hl
    apply key <;> simp [paramsOf]
    all_goals
      rcases legalSc_cases hl with h | h | h | h <;> simp only [paramsOf] at h <;> rw [h] <;> cases st <;> decide
  · cases h

/-- Without a step an edit of a legal cursor changes nothing (R111). -/
theorem edit_zero (p : Params) {c : BitVec 4} (hc : c ≤ 9#4) (hl : legalSc p.sc = true) :
    edit p c .zero = .ok p := by
  have hc' : c.toNat ≤ 9 := hc
  have hcase : c.toNat = 0 ∨ c.toNat = 1 ∨ c.toNat = 2 ∨ c.toNat = 3 ∨ c.toNat = 4 ∨ c.toNat = 5 ∨ c.toNat = 6 ∨
    c.toNat = 7 ∨ c.toNat = 8 ∨ c.toNat = 9 := by omega
  unfold edit
  rcases hcase with h | h | h | h | h | h | h | h | h | h <;> rw [h] <;>
    simp [editKindField, editFreqField, editAmpField, editOffsField, editDelta, Step.toInt, editScField, hl, scStep]

/-- All that the display cadence can write (R183). -/
theorem configDisplay_eq (s : State) :
    configDisplay s = { s with
      dispFull := (configDisplay s).dispFull, dispValues := (configDisplay s).dispValues
      lastDispT := (configDisplay s).lastDispT } := by
  unfold configDisplay; split <;> [rfl; (split <;> rfl)]

end Sys2Proof.Machine
end

