-- ==== Sys2Proof/Laws/PerInstr.lean ====
section
/-! SUPPORT. Statements made operation by operation. -/

namespace Sys2Proof.Laws

/-- The selector word of an operation has no bit above the width of its format (R80). -/
def EncodeFits.Statement (i : Instr) : Prop := (encode i).word.toNat < 2 ^ (encode i).fmt.width

/-- A word with bits 38 and 39 clear fits an input bundle. -/
theorem in38_fits {w : Word} (h : ∀ k, 38 ≤ k → k < 40 → w.getLsbD k = false) : w.toNat < 2 ^ 38 :=
  toNat_lt_of_high_clear (h 38 (by omega) (by omega)) (h 39 (by omega) (by omega))

theorem EncodeFits.cycReset (ignored : BitVec 37) : EncodeFits.Statement (.cycReset ignored) :=
  in38_fits fun k h1 h2 => by
    simp [encode, getLsbD_bitAt, BitVec.getLsbD_of_ge ignored k (by omega)]; omega

theorem EncodeFits.cycIterate (modeEv fieldEv encClk encData : Bool) (nowUs : BitVec 32) :
    EncodeFits.Statement (.cycIterate modeEv fieldEv encClk encData nowUs) :=
  in38_fits fun k h1 h2 => by
    simp [encode, getLsbD_bitAt, BitVec.getLsbD_of_ge nowUs k (by omega)]; omega

theorem EncodeFits.cycModePress (fieldEv : Bool) (ignored : BitVec 34) :
    EncodeFits.Statement (.cycModePress fieldEv ignored) :=
  in38_fits fun k h1 h2 => by
    simp [encode, getLsbD_bitAt, BitVec.getLsbD_of_ge ignored k (by omega)]; omega

theorem EncodeFits.cycFieldPress (ignored : BitVec 34) : EncodeFits.Statement (.cycFieldPress ignored) :=
  in38_fits fun k h1 h2 => by
    simp [encode, getLsbD_bitAt, BitVec.getLsbD_of_ge ignored k (by omega)]; omega

theorem EncodeFits.cycIdle (ignored : BitVec 34) : EncodeFits.Statement (.cycIdle ignored) :=
  in38_fits fun k h1 h2 => by
    simp [encode, BitVec.getLsbD_of_ge ignored k (by omega)]

theorem EncodeFits.iterRunning : EncodeFits.Statement .iterRunning := by unfold EncodeFits.Statement; decide

theorem EncodeFits.iterConfiguring : EncodeFits.Statement .iterConfiguring := by unfold EncodeFits.Statement; decide

theorem EncodeFits.iterCalculating : EncodeFits.Statement .iterCalculating := by unfold EncodeFits.Statement; decide

theorem EncodeFits.iterInvalid : EncodeFits.Statement .iterInvalid := by unfold EncodeFits.Statement; decide

theorem EncodeFits.qdStepPlus : EncodeFits.Statement .qdStepPlus := by unfold EncodeFits.Statement; decide

theorem EncodeFits.qdStepMinus : EncodeFits.Statement .qdStepMinus := by unfold EncodeFits.Statement; decide

theorem EncodeFits.qdNoEdgePrevLow (encClk encData : Bool) : EncodeFits.Statement (.qdNoEdgePrevLow encClk encData) := by
  unfold EncodeFits.Statement; revert encClk encData; decide

theorem EncodeFits.qdNoEdgeClkHigh (encData : Bool) : EncodeFits.Statement (.qdNoEdgeClkHigh encData) := by
  unfold EncodeFits.Statement; revert encData; decide

theorem EncodeFits.editKind : EncodeFits.Statement .editKind := by unfold EncodeFits.Statement; decide

theorem EncodeFits.editFreqTens : EncodeFits.Statement .editFreqTens := by unfold EncodeFits.Statement; decide

theorem EncodeFits.editFreqUnits : EncodeFits.Statement .editFreqUnits := by unfold EncodeFits.Statement; decide

theorem EncodeFits.editAmpWhole : EncodeFits.Statement .editAmpWhole := by unfold EncodeFits.Statement; decide

theorem EncodeFits.editAmpTenths : EncodeFits.Statement .editAmpTenths := by unfold EncodeFits.Statement; decide

theorem EncodeFits.editAmpHundredths : EncodeFits.Statement .editAmpHundredths := by unfold EncodeFits.Statement; decide

theorem EncodeFits.editOffsWhole : EncodeFits.Statement .editOffsWhole := by unfold EncodeFits.Statement; decide

theorem EncodeFits.editOffsTenths : EncodeFits.Statement .editOffsTenths := by unfold EncodeFits.Statement; decide

theorem EncodeFits.editOffsHundredths : EncodeFits.Statement .editOffsHundredths := by unfold EncodeFits.Statement; decide

theorem EncodeFits.editSc : EncodeFits.Statement .editSc := by unfold EncodeFits.Statement; decide

theorem EncodeFits.genSine : EncodeFits.Statement .genSine := by unfold EncodeFits.Statement; decide

theorem EncodeFits.genRamp : EncodeFits.Statement .genRamp := by unfold EncodeFits.Statement; decide

theorem EncodeFits.genSquare : EncodeFits.Statement .genSquare := by unfold EncodeFits.Statement; decide

theorem EncodeFits.genDc : EncodeFits.Statement .genDc := by unfold EncodeFits.Statement; decide

theorem EncodeFits.saturate : EncodeFits.Statement .saturate := by unfold EncodeFits.Statement; decide

theorem EncodeFits.dcRedirect : EncodeFits.Statement .dcRedirect := by unfold EncodeFits.Statement; decide

theorem EncodeFits.interval : EncodeFits.Statement .interval := by unfold EncodeFits.Statement; decide

theorem EncodeFits.schedPoll : EncodeFits.Statement .schedPoll := by unfold EncodeFits.Statement; decide

end Sys2Proof.Laws
end

