-- ==== Sys2Proof/Tests/Slice0.lean ====
section
/-! SUPPORT. Tests: expected values are those of 95_test_vectors.md or hand calculation from the rules; witnesses show
that the hypotheses of the statements can be met, clause by clause. -/

namespace Sys2Proof.Tests

open Sys2Proof.Machine

/-! ### Helpers -/

/-- A next state with a property. -/
def gives (r : Result) (p : State → Bool) : Bool :=
  match r with
  | .next t => p t
  | .fault _ => false
  | .refused _ => false

/-- A given model fault. -/
def faults (r : Result) (f : Fault) : Bool :=
  match r with
  | .next _ => false
  | .fault g => g == f
  | .refused _ => false

/-- A given refusal. -/
def refuses (r : Result) (f : Refusal) : Bool :=
  match r with
  | .next _ => false
  | .fault _ => false
  | .refused g => g == f

theorem next_of_gives {r : Result} {p : State → Bool} (h : gives r p = true) : ∃ t, r = .next t ∧ p t = true := by
  cases r with
  | next t => exact ⟨t, rfl, h⟩
  | fault f => cases h
  | refused f => cases h

/-- A small state: TCFG after reset, with a mode, a kind, a step on the port, and a legal table length. -/
def st (mode : BitVec 2) (kind : BitVec 2) (q : Step) : State :=
  { State.reset with mode := mode, kind := kind, qdStep := q, started := true }

/-- The same with a sample count. -/
def stSc (sc : BitVec 8) (q : Step) : State := { State.reset with sc := sc, qdStep := q }

/-- The word of an iterating cycle. -/
def iterWord (c d : Bool) (now : BitVec 32) : Word := bitAt 36 true ||| bitAt 33 c ||| bitAt 32 d ||| now.setWidth 40

/-! ### Well-formedness: ill-formed terms are refused (R80, R87) -/

theorem test_wf_reset_ignored : (Instr.cycReset 1#37).wf = false := by decide
theorem test_wf_mode_press_ignored : (Instr.cycModePress true 5#34).wf = false := by decide
theorem test_wf_field_press_ignored : (Instr.cycFieldPress 1#34).wf = false := by decide
theorem test_wf_idle_ignored : (Instr.cycIdle 0x200000000#34).wf = false := by decide
theorem test_wf_line_empty : (Line.items []).wf = false := by decide
theorem test_wf_line_two_iter : (Line.items [.iter true true 0#32, .iter true false 1#32]).wf = false := by decide
theorem test_wf_line_two_mode : (Line.items [.pressMode, .pressField, .pressMode]).wf = false := by decide
theorem test_wf_line_two_field : (Line.items [.pressField, .pressField]).wf = false := by decide
theorem test_wf_line_good : (Line.items [.pressField, .iter true true 0#32, .pressMode]).wf = true := by decide
theorem test_assemble_ill_formed : Line.assemble (.items [.pressMode, .pressMode]) = none := by decide

/-! ### Decoding: words written out from the encodings of R80, R83, R87 -/

/-- RST alone. -/
theorem test_decode_reset :
    decodeProgramWord 0b0010000000000000000000000000000000000000#40 = .ok (.cycReset 0#37) := by decide
/-- RST wins over the other bits (R85). -/
theorem test_decode_reset_all_ones :
    decodeProgramWord 0b0011111111111111111111111111111111111111#40 = .ok (.cycReset 0x1FFFFFFFFF#37) := by decide
/-- The example of R87: ITER clk=1 dat=0 now=586 | PRESS_MODE. -/
theorem test_decode_iterate :
    decodeProgramWord 0x1A0000024A#40 = .ok (.cycIterate true false true false 586#32) := by decide
/-- Bits 36, 34 and 32: ITER_EN, FIELD_EV, ENC_DATA; NOW_US all ones. -/
theorem test_decode_iterate_bits :
    decodeProgramWord 0b0001010111111111111111111111111111111111#40 = .ok (.cycIterate false true false true 0xFFFFFFFF#32) := by
  decide
theorem test_decode_mode_press :
    decodeProgramWord 0b0000100000000000000000000000000000000000#40 = .ok (.cycModePress false 0#34) := by decide
theorem test_decode_both_presses :
    decodeProgramWord 0b0000110000000000000000000000000000000000#40 = .ok (.cycModePress true 0#34) := by decide
theorem test_decode_field_press :
    decodeProgramWord 0b0000010000000000000000000000000000000000#40 = .ok (.cycFieldPress 0#34) := by decide
theorem test_decode_idle : decodeProgramWord 0#40 = .ok (.cycIdle 0#34) := by decide
theorem test_decode_bit38 : decodeProgramWord 0x4000000000#40 = .error .bitsAboveWidth := by decide
theorem test_decode_bit39 : decodeProgramWord 0x8000000000#40 = .error .bitsAboveWidth := by decide
theorem test_decode_ctl4 : decode ⟨.ctl4, 0b0111#40⟩ = .ok (.cycIterate true true false false 0#32) := by decide
theorem test_decode_ctl4_above : decode ⟨.ctl4, 0b10000#40⟩ = .error .bitsAboveWidth := by decide
theorem test_decode_running : decode ⟨.mode2, 0b00#40⟩ = .ok .iterRunning := by decide
theorem test_decode_configuring : decode ⟨.mode2, 0b01#40⟩ = .ok .iterConfiguring := by decide
theorem test_decode_calculating : decode ⟨.mode2, 0b10#40⟩ = .ok .iterCalculating := by decide
theorem test_decode_invalid : decode ⟨.mode2, 0b11#40⟩ = .ok .iterInvalid := by decide
theorem test_decode_step_plus : decode ⟨.qdin3, 0b101#40⟩ = .ok .qdStepPlus := by decide
theorem test_decode_step_minus : decode ⟨.qdin3, 0b100#40⟩ = .ok .qdStepMinus := by decide
theorem test_decode_prev_low : decode ⟨.qdin3, 0b010#40⟩ = .ok (.qdNoEdgePrevLow true false) := by decide
theorem test_decode_clk_high : decode ⟨.qdin3, 0b111#40⟩ = .ok (.qdNoEdgeClkHigh true) := by decide
theorem test_decode_edit_kind : decode ⟨.cursor4, 0b0000#40⟩ = .ok .editKind := by decide
theorem test_decode_edit_freq_tens : decode ⟨.cursor4, 0b0001#40⟩ = .ok .editFreqTens := by decide
theorem test_decode_edit_freq_units : decode ⟨.cursor4, 0b0010#40⟩ = .ok .editFreqUnits := by decide
theorem test_decode_edit_amp_whole : decode ⟨.cursor4, 0b0011#40⟩ = .ok .editAmpWhole := by decide
theorem test_decode_edit_amp_tenths : decode ⟨.cursor4, 0b0100#40⟩ = .ok .editAmpTenths := by decide
theorem test_decode_edit_amp_hundredths : decode ⟨.cursor4, 0b0101#40⟩ = .ok .editAmpHundredths := by decide
theorem test_decode_edit_offs_whole : decode ⟨.cursor4, 0b0110#40⟩ = .ok .editOffsWhole := by decide
theorem test_decode_edit_offs_tenths : decode ⟨.cursor4, 0b0111#40⟩ = .ok .editOffsTenths := by decide
theorem test_decode_edit_offs_hundredths : decode ⟨.cursor4, 0b1000#40⟩ = .ok .editOffsHundredths := by decide
theorem test_decode_edit_sc : decode ⟨.cursor4, 0b1001#40⟩ = .ok .editSc := by decide
/-- R85: cursor codes 10 to 15. -/
theorem test_decode_cursor_illegal :
    ∀ k : Fin 6, decode ⟨.cursor4, BitVec.ofNat 40 (10 + k.val)⟩ = .error .illegalCursor := by decide
theorem test_decode_gen_sine : decode ⟨.kind2, 0b00#40⟩ = .ok .genSine := by decide
theorem test_decode_gen_ramp : decode ⟨.kind2, 0b01#40⟩ = .ok .genRamp := by decide
theorem test_decode_gen_square : decode ⟨.kind2, 0b10#40⟩ = .ok .genSquare := by decide
theorem test_decode_gen_dc : decode ⟨.kind2, 0b11#40⟩ = .ok .genDc := by decide
theorem test_decode_saturate : decode ⟨.sub .saturate, 0#40⟩ = .ok .saturate := by decide
theorem test_decode_dc_redirect : decode ⟨.sub .dcRedirect, 0#40⟩ = .ok .dcRedirect := by decide
theorem test_decode_interval : decode ⟨.sub .interval, 0#40⟩ = .ok .interval := by decide
theorem test_decode_sched_poll : decode ⟨.sub .schedPoll, 0#40⟩ = .ok .schedPoll := by decide
theorem test_decode_sub_above : decode ⟨.sub .interval, 1#40⟩ = .error .bitsAboveWidth := by decide
/-- The opcode-table words of the cycle operations. -/
theorem test_table_words :
    decodeTableWord 8 0b1000 = some (.cycReset 0#37) ∧
    decodeTableWord 8 0b0100 = some (.cycIterate false false false false 0#32) ∧
    decodeTableWord 8 0b0010 = some (.cycModePress false 0#34) ∧
    decodeTableWord 8 0b0001 = some (.cycFieldPress 0#34) ∧
    decodeTableWord 8 0b0000 = some (.cycIdle 0#34) ∧ decodeTableWord 8 16 = none := by decide
/-- The whole input bundle of R87's example, and of TURN_UP (R88). -/
theorem test_assemble_example :
    Line.assemble (.items [.iter true false 586#32, .pressMode]) = some 0x1A0000024A#40 ∧
    (Pseudo.turnUp 5#32).expand.map Line.assemble = [some 0x1300000005#40, some 0x1100000005#40] := by decide

/-! ### Steps of the input bundles -/

/-- R48, R220: a reset cycle from a used state. -/
theorem test_reset :
    gives (exec (.cycReset 0#37) { st 1#2 3#2 .plus with fieldCnt := 5#4, idx := 9#8, dacCode := 7#12 })
      (fun t => t == State.reset) = true := by decide
/-- Section 2.2, row 1: the reset state, ITER and MODE_EV. -/
theorem test_iterate_calculating :
    gives (step (State.reset.withFetchWord 8 0b0110))
      (fun t => t.mode == 1#2 && t.dispFull && t.interval == 586#32 && t.runSc == 32#8 && t.buf.read 8 == 4076#12) = true := by
  decide
/-- Section 2.2, row 8: the poll runs in Running, the press moves on to Configuring. -/
theorem test_iterate_running :
    gives (exec (.cycIterate true false true true 586#32)
        { st 0#2 0#2 .zero with interval := 586#32, runSc := 32#8, buf := [(0, 2038#12)] })
      (fun t => t.dacCode == 2038#12 && t.dacWe && t.idx == 1#8 && t.lastT == 586#32 && t.mode == 1#2) = true := by decide
/-- Section 2.2: MODE 2, both presses, no iteration. -/
theorem test_mode_press :
    gives (exec (.cycModePress true 0#34) (st 2#2 0#2 .plus))
      (fun t => t.mode == 3#2 && t.fieldCnt == 1#4 && t.qdStep == .zero) = true := by decide
theorem test_field_press :
    gives (exec (.cycFieldPress 0#34) { st 1#2 0#2 .zero with fieldCnt := 15#4 })
      (fun t => t.mode == 1#2 && t.fieldCnt == 0#4) = true := by decide
theorem test_idle :
    gives (exec (.cycIdle 0#34) { st 1#2 0#2 .plus with dacWe := true })
      (fun t => t == st 1#2 0#2 .zero) = true := by decide
theorem test_no_bundle : refuses (step State.reset) .noInputBundle = true := by decide
theorem test_bad_bundle :
    refuses (step (State.reset.withFetchWord 40 (2 ^ 38))) (.undecodable .bitsAboveWidth) = true := by decide

/-! ### Mode operations -/

/-- An illegal RUN_SC is a model fault (R205). -/
theorem test_running_illegal : faults (exec .iterRunning { st 0#2 0#2 .zero with runSc := 48#8 }) .illegalSampleCount = true := by
  decide
/-- Section 2.3: FIELD_CNT 11 under DC gives cursor 6, written back. -/
theorem test_configuring_redirect :
    gives (exec .iterConfiguring { st 1#2 3#2 .minus with fieldCnt := 11#4 })
      (fun t => t.editCursor == 6#4 && t.fieldCnt == 6#4 && t.offs == 14875#32 && t.dispFull) = true := by decide
/-- Section 2.4: FREQ 200 at SC 32, cursor 9, step +1: SC 64 and FREQ 142 in one iteration. -/
theorem test_configuring_sc :
    gives (exec .iterConfiguring { st 1#2 0#2 .plus with freq := 200#16, fieldCnt := 9#4, cfgPrev := true })
      (fun t => t.sc == 64#8 && t.freq == 142#16 && t.editCursor == 9#4 && !t.dispFull && !t.dispValues) = true := by decide
/-- Section 2.8: the TCFG sine table of 32 samples; S7. -/
theorem test_calculating :
    gives (exec .iterCalculating (st 2#2 0#2 .zero))
      (fun t => (List.range 8).map t.buf.read == [2038#12, 2435#12, 2818#12, 3170#12, 3479#12, 3732#12, 3920#12, 4036#12] &&
        t.buf.read 31 == 1640#12 && t.interval == 586#32 && t.runSc == 32#8 && t.mode == 0#2) = true := by decide
theorem test_invalid : gives (exec .iterInvalid (st 3#2 0#2 .zero)) (fun t => t.mode == 2#2) = true := by decide

/-! ### The decoder -/

theorem test_step_plus :
    gives (exec .qdStepPlus { State.reset with qdPrev := true }) (fun t => t.qdStep == .plus && !t.qdPrev) = true := by decide
theorem test_step_minus :
    gives (exec .qdStepMinus { State.reset with qdPrev := true })
      (fun t => (portsOf t).qdStep == 0b11#2 && !t.qdPrev) = true := by decide
theorem test_rising :
    gives (exec (.qdNoEdgePrevLow true false) (st 0#2 0#2 .plus)) (fun t => t.qdStep == .zero && t.qdPrev) = true := by decide
theorem test_clk_high :
    gives (exec (.qdNoEdgeClkHigh true) { State.reset with qdPrev := true }) (fun t => t.qdStep == .zero && t.qdPrev) = true := by
  decide

/-! ### The editor (section 2.4) and the saturation pass (section 2.6) -/

theorem test_edit_kind_down : gives (exec .editKind (st 1#2 0#2 .minus)) (fun t => t.kind == 3#2) = true := by decide
theorem test_edit_kind_up : gives (exec .editKind (st 1#2 3#2 .plus)) (fun t => t.kind == 0#2) = true := by decide
theorem test_edit_freq_tens :
    gives (exec .editFreqTens { st 1#2 0#2 .minus with freq := 5#16 }) (fun t => t.freq.toInt == -5) = true := by decide
theorem test_edit_freq_tens_overflow :
    faults (exec .editFreqTens { st 1#2 0#2 .plus with freq := 32760#16 }) (.rangeOverflow .freq) = true := by decide
theorem test_edit_freq_units : gives (exec .editFreqUnits (st 1#2 0#2 .minus)) (fun t => t.freq == 49#16) = true := by decide
theorem test_edit_amp_whole : gives (exec .editAmpWhole (st 1#2 0#2 .plus)) (fun t => t.amp == 59750#32) = true := by decide
theorem test_edit_amp_tenths :
    gives (exec .editAmpTenths { st 1#2 0#2 .minus with amp := 0#32 }) (fun t => t.amp.toInt == -1000) = true := by decide
theorem test_edit_amp_hundredths : gives (exec .editAmpHundredths (st 1#2 0#2 .plus)) (fun t => t.amp == 49850#32) = true := by
  decide
theorem test_edit_offs_whole : gives (exec .editOffsWhole (st 1#2 0#2 .minus)) (fun t => t.offs == 14875#32) = true := by decide
theorem test_edit_offs_tenths : gives (exec .editOffsTenths (st 1#2 0#2 .plus)) (fun t => t.offs == 25875#32) = true := by decide
theorem test_edit_offs_hundredths :
    gives (exec .editOffsHundredths { st 1#2 0#2 .minus with offs := 50#32 }) (fun t => t.offs.toInt == -50) = true := by decide
theorem test_edit_sc_up : gives (exec .editSc (stSc 128#8 .plus)) (fun t => t.sc == 128#8) = true := by decide
theorem test_edit_sc_down : gives (exec .editSc (stSc 16#8 .minus)) (fun t => t.sc == 16#8) = true := by decide
/-- S8. -/
theorem test_saturate :
    gives (exec .saturate { stSc 128#8 .zero with freq := 80#16, amp := BitVec.ofInt 32 (-1000), offs := 60000#32 })
      (fun t => t.freq == 71#16 && t.amp == 0#32 && t.offs == 50000#32 && t.sc == 128#8) = true := by decide
/-- Section 2.6: SC = 24. -/
theorem test_saturate_fault : faults (exec .saturate (stSc 24#8 .zero)) .illegalSampleCount = true := by decide
theorem test_dc_redirect :
    gives (exec .dcRedirect { st 1#2 3#2 .zero with editCursor := 1#4, fieldCnt := 1#4 })
      (fun t => t.editCursor == 6#4 && t.fieldCnt == 6#4) = true := by decide
theorem test_dc_redirect_illegal :
    faults (exec .dcRedirect { st 1#2 0#2 .zero with editCursor := 10#4 }) .illegalCursor = true := by decide
/-- Section 2.3: the whole table of the cursor derivation. -/
theorem test_derive_cursor :
    (List.range 16).map (fun n => (deriveCursor (BitVec.ofNat 4 n) 0#2).1.toNat) =
      [0, 1, 2, 3, 4, 5, 6, 7, 8, 9, 0, 1, 2, 3, 4, 5] ∧
    (List.range 16).map (fun n => (deriveCursor (BitVec.ofNat 4 n) 3#2).2) =
      [none, some 6#4, none, none, none, none, none, none, none, none, some 0#4, some 6#4, some 2#4, some 3#4, some 4#4,
       some 5#4] := by decide

/-! ### The generator (sections 2.7 to 2.9) and the scheduler (section 2.10) -/

theorem test_rnd : rnd 5 2 = 3 ∧ rnd 3 2 = 2 ∧ rnd (-3) 2 = -1 ∧ rnd 101888000 50000 = 2038 := by decide
/-- The ties of section 2.7. -/
theorem test_quant_ties : dcCode 8192 1 = 1#12 ∧ dcCode 8192 3 = 2#12 ∧ dcCode 8192 5 = 3#12 := by decide
/-- The sine of 16 samples with AMP = OFFS = P_VREF_U: both ends of section 2.8's row. -/
theorem test_gen_sine :
    gives (exec .genSine { stSc 16#8 .zero with amp := 50000#32, offs := 50000#32 })
      (fun t => (List.range 16).map t.buf.read ==
        [4095#12, 4095#12, 4095#12, 4095#12, 4095#12, 4095#12, 4095#12, 4095#12, 4095#12, 3312#12, 2648#12, 2204#12, 2048#12,
         2204#12, 2648#12, 3312#12]) = true := by decide
theorem test_gen_ramp :
    gives (exec .genRamp (stSc 16#8 .zero))
      (fun t => (List.range 10).map t.buf.read ==
        [2038#12, 2292#12, 2547#12, 2802#12, 3057#12, 3311#12, 3566#12, 3821#12, 4076#12, 4095#12]) = true := by decide
/-- The high half ends at SC / 2; an entry past SC keeps its value (R63). -/
theorem test_gen_square :
    gives (exec .genSquare { stSc 16#8 .zero with buf := [(15, 1#12), (16, 9#12)] })
      (fun t => t.buf.read 7 == 4095#12 && t.buf.read 8 == 2038#12 && t.buf.read 15 == 2038#12 && t.buf.read 16 == 9#12) =
      true := by decide
theorem test_gen_dc :
    gives (exec .genDc { stSc 16#8 .zero with offs := 50000#32 })
      (fun t => t.buf.read 0 == 4095#12 && t.buf.read 15 == 4095#12 && t.buf.read 16 == 0#12) = true := by decide
theorem test_interval : gives (exec .interval State.reset) (fun t => t.interval == 586#32) = true := by decide
/-- S8. -/
theorem test_interval_71 : gives (exec .interval { stSc 128#8 .zero with freq := 71#16 }) (fun t => t.interval == 103#32) = true := by
  decide
/-- S5 and S10: IDX 17 with RUN_SC 16 reads entry 1; the elapsed time wraps (R41). -/
theorem test_poll_wraps :
    gives (exec .schedPoll { st 0#2 0#2 .zero with idx := 17#8, buf := [(1, 2818#12)], interval := 5#32, lastT := 0xFFFFFFFE#32, nowUs := 3#32 })
      (fun t => t.dacCode == 2818#12 && t.idx == 18#8 && t.lastT == 3#32 && t.dacWe) = true := by decide
/-- One microsecond before the deadline. -/
theorem test_poll_before :
    gives (exec .schedPoll { st 0#2 0#2 .zero with interval := 6#32, lastT := 0xFFFFFFFE#32, nowUs := 3#32 })
      (fun t => !t.dacWe && t.idx == 0#8) = true := by decide

/-! ### Witnesses: for each statement with hypotheses, states and operands that meet them, clause by clause -/

/-- TCFG after reset with the mode of a cycle; it satisfies the invariant. -/
def atMode (mode : BitVec 2) : State := { State.reset with mode := mode }

/-- A Running state whose deadline is 586 microseconds after 0. -/
def polling (runSc idx : BitVec 8) (now : BitVec 32) : State :=
  { State.reset with mode := 0#2, runSc := runSc, idx := idx, interval := 586#32, nowUs := now, buf := [(0, 2038#12)] }

theorem test_witness_EncodeOfDecodeIsTheWord :
    (Selector.mk .cursor4 9#40).fmt ≠ .ctl4 ∧ decode ⟨.cursor4, 9#40⟩ = .ok .editSc := by decide

theorem test_witness_ControlBitsSelectTheCycle :
    2 ^ 38 ≤ (0x4000000000#40).toNat ∧
    ((0x3FFFFFFFFF#40).toNat < 2 ^ 38 ∧ (0x3FFFFFFFFF#40).getLsbD 37 = true) ∧
    ((0x1FFFFFFFFF#40).getLsbD 37 = false ∧ (0x1FFFFFFFFF#40).getLsbD 36 = true) ∧
    ((0x0FFFFFFFFF#40).getLsbD 36 = false ∧ (0x0FFFFFFFFF#40).getLsbD 35 = true) ∧
    ((0x07FFFFFFFF#40).getLsbD 35 = false ∧ (0x07FFFFFFFF#40).getLsbD 34 = true) ∧
    ((0x03FFFFFFFF#40).getLsbD 35 = false ∧ (0x03FFFFFFFF#40).getLsbD 34 = false) ∧
    (15#40).toNat < 16 ∧ 16 ≤ (16#40).toNat := by decide

theorem test_witness_StimulusLineAssembles :
    [Item.pressField, .iter true false 586#32, .pressMode].Perm
      ([Item.iter true false 586#32] ++ (if true then [Item.pressMode] else []) ++ (if true then [Item.pressField] else [])) ∧
    [Item.pressField, .pressMode].Perm ([Item.pressMode] ++ (if true then [Item.pressField] else [])) ∧
    [Item.pressMode].Perm ([Item.pressMode] ++ (if false then [Item.pressField] else [])) := by
  decide

theorem test_witness_StepRunsTheDecodedOperation :
    ((State.reset.withFetchWord 8 0b0001).stimulus = 0x0400000000#40 :: [] ∧
      decodeProgramWord 0x0400000000#40 = .ok (.cycFieldPress 0#34)) ∧
    State.reset.stimulus = [] ∧
    ((State.reset.withFetchWord 40 (2 ^ 38)).stimulus = 0xFFFFFFFFFF#40 :: [] ∧
      decodeProgramWord 0xFFFFFFFFFF#40 = .error .bitsAboveWidth) ∧
    gives (step (State.reset.withFetchWord 8 0b0001)) (fun _ => true) = true := by decide

/-- The clause on the ports: each operation without an iteration is in the list and answers. -/
theorem test_witness_CyclesWithoutAnIteration :
    ∀ i ∈ [Instr.cycIdle 0#34, .cycFieldPress 0#34, .cycModePress true 0#34],
      gives (exec i (st 3#2 0#2 .plus)) (fun _ => true) = true := by decide

theorem test_witness_ResetIgnoresInputsAndState :
    (State.reset.withFetchWord 8 8).build = ((st 1#2 3#2 .plus).withFetchWord 8 15).build ∧
    (State.reset.withFetchWord 8 8).stimulus = 0x2000000000#40 :: [] ∧
    ((st 1#2 3#2 .plus).withFetchWord 8 15).stimulus = 0x3C00000000#40 :: [] ∧
    (0x2000000000#40).toNat < 2 ^ 38 ∧ (0x3C00000000#40).toNat < 2 ^ 38 ∧
    (0x2000000000#40).getLsbD 37 = true ∧ (0x3C00000000#40).getLsbD 37 = true := by decide

/-- The two inner hypotheses: a mode operation that answers, and one that faults. -/
theorem test_witness_IterationRunsTheSelectedOperations :
    gives (exec .iterInvalid (atMode 3#2)) (fun _ => true) = true ∧
    faults (exec .iterRunning { atMode 0#2 with runSc := 48#8 }) .illegalSampleCount = true := by decide

/-- For EveryIterationWrites, PressesMergeWithIterationWrites, DisplayStrobes, OnlyCalculatingWritesTheTable and
SamplesOnlyFromRunning: an iterating cycle that answers, in each mode. -/
theorem test_witness_iterating_cycle :
    (∃ t, exec (.cycIterate true true true true 586#32) (atMode 0#2) = .next t) ∧
    (∃ t, exec (.cycIterate true true false true 500000#32) (atMode 1#2) = .next t) ∧
    (∃ t, exec (.cycIterate true true true false 0#32) (atMode 2#2) = .next t) ∧
    (∃ t, exec (.cycIterate true true true true 0xFFFFFFFF#32) (atMode 3#2) = .next t) :=
  have h : ∀ {r : Result}, gives r (fun _ => true) = true → ∃ t, r = .next t := fun h =>
    let ⟨t, h, _⟩ := next_of_gives h
    ⟨t, h⟩
  ⟨h (by decide), h (by decide), h (by decide), h (by decide)⟩

theorem test_witness_OnlyCalculatingWritesTheTable : (atMode 2#2).mode = 2#2 ∧ (atMode 2#2).buf.wf = true ∧ (atMode 1#2).mode ≠ 2#2 := by
  decide

/-- The strobe of SamplesOnlyFromRunning both ways, at the deadline and one microsecond before. -/
theorem test_witness_SamplesOnlyFromRunning :
    gives (exec (.cycIterate false false true true 586#32) (polling 16#8 255#8 0#32)) (fun t => t.dacWe == true) = true ∧
    gives (exec (.cycIterate false false true true 585#32) (polling 16#8 255#8 0#32)) (fun t => t.dacWe == false) = true := by
  decide

theorem test_witness_ModeTransitionTable :
    (Inv (atMode 0#2) ∧ (atMode 0#2).mode = 0#2) ∧ (Inv (atMode 1#2) ∧ (atMode 1#2).mode = 1#2) ∧
    (Inv (atMode 2#2) ∧ (atMode 2#2).mode = 2#2) ∧ (Inv (atMode 3#2) ∧ (atMode 3#2).mode = 3#2) := by decide

theorem test_witness_PressesCountModuloTheirRange :
    ({ State.reset with stimulus := List.replicate 4 0x0800000000#40 } : State).stimulus =
      List.replicate 4 0x0800000000#40 ++ [] ∧
    ({ State.reset with stimulus := List.replicate 16 0x0400000000#40 ++ [0#40] } : State).stimulus =
      List.replicate 16 0x0400000000#40 ++ [0#40] := by decide

theorem test_witness_DecoderTruthTable :
    ((5 : Nat), Instr.qdStepPlus, Step.plus, 0b01#2, false) ∈
      [((4 : Nat), Instr.qdStepMinus, Step.minus, 0b11#2, false), (5, .qdStepPlus, .plus, 0b01#2, false)] := by decide

/-- The cycles of each pseudo-instruction run, one after the other, with a further bundle behind them. -/
theorem test_witness_PseudoInstructionSteps :
    (Pseudo.turnUp 5#32).expand.map Line.assemble = [0x1300000005#40, 0x1100000005#40].map some ∧
    (Pseudo.turnDown 5#32).expand.map Line.assemble = [0x1200000005#40, 0x1000000005#40].map some ∧
    (Pseudo.wait 5#32).expand.map Line.assemble = [0x1300000005#40].map some ∧
    ({ atMode 3#2 with stimulus := [0x1300000005#40, 0x1100000005#40, 0#40] } : State).stimulus =
      [0x1300000005#40, 0x1100000005#40] ++ [0#40] ∧
    gives (step { atMode 3#2 with stimulus := [0x1300000005#40, 0x1100000005#40, 0#40] })
      (fun t => gives (step t) (fun u => u.qdStep == .plus)) = true ∧
    gives (step { atMode 3#2 with stimulus := [0x1200000005#40, 0x1000000005#40, 0#40] })
      (fun t => gives (step t) (fun u => u.qdStep == .minus)) = true := by decide

/-- Both ends of the register, reached and passed. -/
theorem test_witness_FrequencyEdits :
    (Instr.editFreqTens, (10 : Int)) ∈ [(Instr.editFreqTens, (10 : Int)), (.editFreqUnits, 1)] ∧
    ({ st 1#2 0#2 .plus with freq := 32757#16 } : State).freq.toInt + 10 * Step.plus.toInt = 32767 ∧
    ({ st 1#2 0#2 .plus with freq := 32758#16 } : State).freq.toInt + 10 * Step.plus.toInt = 32768 ∧
    ({ st 1#2 0#2 .minus with freq := 0x8001#16 } : State).freq.toInt + 1 * Step.minus.toInt = -32768 ∧
    ({ st 1#2 0#2 .minus with freq := 0x8000#16 } : State).freq.toInt + 1 * Step.minus.toInt = -32769 := by decide

theorem test_witness_AmplitudeEdits :
    (Instr.editAmpTenths, (1000 : Int)) ∈
      [(Instr.editAmpWhole, (10000 : Int)), (.editAmpTenths, 1000), (.editAmpHundredths, 100)] ∧
    ({ st 1#2 0#2 .plus with amp := 2147482647#32 } : State).amp.toInt + 1000 * Step.plus.toInt = 2147483647 ∧
    ({ st 1#2 0#2 .plus with amp := 2147482648#32 } : State).amp.toInt + 1000 * Step.plus.toInt = 2147483648 ∧
    ({ st 1#2 0#2 .minus with amp := 0x80000064#32 } : State).amp.toInt + 100 * Step.minus.toInt = -2147483648 ∧
    ({ st 1#2 0#2 .minus with amp := 0x80000063#32 } : State).amp.toInt + 100 * Step.minus.toInt = -2147483649 := by decide

theorem test_witness_OffsetEdits :
    (Instr.editOffsHundredths, (100 : Int)) ∈
      [(Instr.editOffsWhole, (10000 : Int)), (.editOffsTenths, 1000), (.editOffsHundredths, 100)] ∧
    ({ st 1#2 0#2 .plus with offs := 2147473647#32 } : State).offs.toInt + 10000 * Step.plus.toInt = 2147483647 ∧
    ({ st 1#2 0#2 .plus with offs := 2147473648#32 } : State).offs.toInt + 10000 * Step.plus.toInt = 2147483648 ∧
    ({ st 1#2 0#2 .minus with offs := 0x80000064#32 } : State).offs.toInt + 100 * Step.minus.toInt = -2147483648 ∧
    ({ st 1#2 0#2 .minus with offs := 0x80000063#32 } : State).offs.toInt + 100 * Step.minus.toInt = -2147483649 := by decide

theorem test_witness_SampleCountEdit :
    ((16, 32, 16) ∈ [((16 : Nat), (32 : Nat), (16 : Nat)), (32, 64, 16), (64, 128, 32), (128, 128, 64)] ∧
      (stSc 16#8 .plus).sc.toNat = 16) ∧
    ((128, 128, 64) ∈ [((16 : Nat), (32 : Nat), (16 : Nat)), (32, 64, 16), (64, 128, 32), (128, 128, 64)] ∧
      (stSc 128#8 .minus).sc.toNat = 128) ∧
    (stSc 0#8 .zero).sc.toNat ∉ [16, 32, 64, 128] ∧ (stSc 255#8 .zero).sc.toNat ∉ [16, 32, 64, 128] := by decide

theorem test_witness_CursorSelectsTheEdit :
    (9#4 ≤ 9#4 ∧ (edit (paramsOf (stSc 32#8 .plus)) 9#4 .plus).toOption = some (paramsOf (stSc 64#8 .plus)) ∧
      fitsSigned 16 (paramsOf (stSc 64#8 .plus)).freq = true ∧ fitsSigned 32 (paramsOf (stSc 64#8 .plus)).amp = true ∧
      fitsSigned 32 (paramsOf (stSc 64#8 .plus)).offs = true) ∧
    9#4 < 10#4 ∧ 9#4 < 15#4 := by decide

theorem test_witness_SaturationClamps :
    legalSc (max (stSc 0#8 .zero).sc.toNat 16) = true ∧ legalSc (max (stSc 128#8 .zero).sc.toNat 16) = true ∧
    legalSc (max (stSc 17#8 .zero).sc.toNat 16) = false ∧ legalSc (max (stSc 255#8 .zero).sc.toNat 16) = false := by decide

theorem test_witness_SaturationIsIdempotent :
    gives (exec .saturate (stSc 128#8 .plus)) (fun _ => true) = true ∧ ParamsInRange State.reset := by decide

theorem test_witness_DcRedirectsFieldOne :
    (({ st 1#2 3#2 .zero with editCursor := 9#4 } : State).editCursor ≤ 9#4 ∧
      ¬(({ st 1#2 3#2 .zero with editCursor := 9#4 } : State).kind = 3#2 ∧ (9#4 : BitVec 4) = 1#4)) ∧
    (({ st 1#2 2#2 .zero with editCursor := 1#4 } : State).editCursor ≤ 9#4 ∧ ¬((2#2 : BitVec 2) = 3#2 ∧ (1#4 : BitVec 4) = 1#4)) ∧
    ((st 1#2 3#2 .zero).kind = 3#2 ∧ ({ st 1#2 3#2 .zero with editCursor := 1#4 } : State).editCursor = 1#4) ∧
    9#4 < ({ st 1#2 3#2 .zero with editCursor := 10#4 } : State).editCursor := by decide

/-- For RunningAndInvalidIterations, ConfiguringIteration and ConfiguringIsItsOperationsInOrder: the reset state, and
parameters at the ends of their ranges. -/
theorem test_witness_in_range :
    legalSc State.reset.runSc.toNat = true ∧ ParamsInRange State.reset ∧
    ParamsInRange { stSc 128#8 .plus with freq := 71#16, amp := 50000#32, offs := 50000#32 } ∧
    ParamsInRange { stSc 16#8 .minus with freq := 1#16, amp := 0#32, offs := 0#32, kind := 3#2, fieldCnt := 11#4 } := by decide

theorem test_witness_NoStepNoEdit : ParamsInRange State.reset ∧ State.reset.qdStep = .zero := by decide

theorem test_witness_OnlyConfiguringEdits :
    ParamsInRange (atMode 2#2) ∧ (atMode 2#2).mode ≠ 1#2 ∧
    gives (exec (.cycIterate false false true true 0#32) (atMode 2#2)) (fun _ => true) = true := by decide

/-- For CalculatingIteration and CalculatingIsItsOperationsInOrder. SC 0 is repaired to 16, so a Calculating iteration also
runs on it. -/
theorem test_witness_CalculatingIteration_and_its_operations :
    (State.reset.buf.wf = true ∧ legalSc (max State.reset.sc.toNat 16) = true) ∧
    legalSc (max (stSc 0#8 .zero).sc.toNat 16) = true := by decide

theorem test_witness_GenerationIsDeterministic :
    (atMode 2#2).buf.wf = true ∧ (polling 16#8 3#8 9#32).buf.wf = true ∧
    (atMode 2#2).build.val.vrefU = (polling 16#8 3#8 9#32).build.val.vrefU ∧
    (atMode 2#2).kind = (polling 16#8 3#8 9#32).kind ∧ (atMode 2#2).sc = (polling 16#8 3#8 9#32).sc ∧
    (atMode 2#2).amp = (polling 16#8 3#8 9#32).amp ∧ (atMode 2#2).offs = (polling 16#8 3#8 9#32).offs ∧
    gives (exec .iterCalculating (atMode 2#2)) (fun _ => true) = true ∧
    gives (exec .iterCalculating (polling 16#8 3#8 9#32)) (fun _ => true) = true := by decide

/-- For SineTable, RampTable, SquareTable, DcTable and IntervalConversion: both ends of SC_SET, and illegal counts. -/
theorem test_witness_tables :
    State.reset.buf.wf = true ∧ (polling 16#8 0#8 0#32).buf.wf = true ∧
    legalSc (stSc 16#8 .zero).sc.toNat = true ∧ legalSc (stSc 128#8 .zero).sc.toNat = true ∧
    legalSc (stSc 15#8 .zero).sc.toNat = false ∧ legalSc (stSc 129#8 .zero).sc.toNat = false ∧
    1 ≤ ({ stSc 16#8 .zero with freq := 1#16 } : State).freq.toInt := by decide

/-- Both ends of SC_SET, and of a quarter wave. -/
theorem test_witness_SineOfEverySampleIsTheRoms :
    (legalSc 16 = true ∧ 0 ≤ 16 / 4 ∧ 4 ≤ 16 / 4 ∧ 0 < 4) ∧ (legalSc 128 = true ∧ 32 ≤ 128 / 4) := by decide

theorem test_witness_QuantizationRoundsAndSaturates :
    (0 : Int) < 1 ∧ (4095 * 1 : Int) < 4096 ∧ (-1 : Int) < 0 := by decide

theorem test_witness_SineQuarterPoints : (0 : Int) < 1 ∧ legalSc 16 = true ∧ legalSc 128 = true := by decide

theorem test_witness_RampNeverFalls : (0 : Int) < 50000 ∧ (0 : Int) ≤ 0 ∧ legalSc 16 = true ∧ 0 ≤ 15 ∧ 15 < 16 := by decide

theorem test_witness_SquareHighHalf : (0 : Int) < 50000 ∧ (0 : Int) ≤ 0 ∧ legalSc 16 = true ∧ 7 < 16 / 2 := by decide

theorem test_witness_SchedulerPoll :
    (legalSc (polling 16#8 255#8 586#32).runSc.toNat = true ∧
      (polling 16#8 255#8 586#32).interval.toNat ≤ ((polling 16#8 255#8 586#32).nowUs - (polling 16#8 255#8 586#32).lastT).toNat) ∧
    ((polling 128#8 0#8 585#32).nowUs - (polling 128#8 0#8 585#32).lastT).toNat < (polling 128#8 0#8 585#32).interval.toNat ∧
    legalSc (polling 17#8 0#8 0#32).runSc.toNat = false := by decide

/-- The second poll at its deadline. -/
theorem test_witness_NoCatchUp :
    (polling 16#8 0#8 0#32).mode = 0#2 ∧
    gives (exec (.cycIterate false false true true 2000#32) (polling 16#8 0#8 0#32))
      (fun t => t.dacWe && gives (exec (.cycIterate false true true true 2586#32) t) (fun u => u.dacWe)) = true := by decide

theorem test_witness_IndexWrapsWithTheTable :
    gives (exec .schedPoll (polling 64#8 255#8 586#32)) (fun t => t.dacWe) = true ∧
    (polling 64#8 255#8 586#32).interval.toNat ≤
      ((polling 64#8 255#8 586#32).nowUs - (polling 64#8 255#8 586#32).lastT).toNat := by decide

theorem test_witness_CanonicalBuffersAreEqualData :
    Memory.wf [(0, 2038#12), (127, 1#12)] = true ∧
    Memory.write (Memory.write [] 127 1#12) 0 2038#12 = Memory.write (Memory.write [] 0 2038#12) 127 1#12 := by decide

theorem test_witness_ConstructionRefusesIllegalParameters :
    Config.tcfg.val.valid = true ∧ { Config.tcfg.val with tcNum := 16 }.valid = false ∧
    { Config.tcfg.val with initFreq := 285 }.valid = false := by decide

/-- For StepKeepsTheInvariant, StepMeetsNoModelFault and StepKeepsOneConfiguration. -/
theorem test_witness_steps :
    Inv (State.reset.withFetchWord 8 0b0100) ∧
    gives (step (State.reset.withFetchWord 8 0b0100)) (fun _ => true) = true ∧
    (State.reset.withFetchWord 8 0b0100).stimulus = 0x1000000000#40 :: [] ∧ (0x1000000000#40).toNat < 2 ^ 38 := by decide

theorem test_witness_StepKeepsOneConfiguration : OneConfiguration (State.reset.withFetchWord 8 0b0100) :=
  .inl ⟨rfl, rfl, fun _ => rfl⟩

theorem test_witness_RunsCompleteOnInputBundles :
    Inv { State.reset with stimulus := [0x2000000000#40, 0#40] } ∧
    ({ State.reset with stimulus := [0x2000000000#40, 0#40] } : State).stimulus = [0x2000000000#40] ++ [0#40] ∧
    ∀ w ∈ [(0x2000000000#40 : Word)], w.toNat < 2 ^ 38 :=
  ⟨by decide, by decide, fun w h => by rw [List.mem_singleton.mp h]; decide⟩

end Sys2Proof.Tests
end

section
/-! PROOFS. The number rules of 00_scope.md: the width of a register that an edit writes (R11), the rounding and saturation
of a stored code (R12), and the parameter ranges (R7, R8). -/

namespace Sys2Proof.Proofs

open Sys2Proof Sys2Proof.Machine

/-! ### Writes of a signed register -/

theorem fitsSigned16_iff {x : Int} : fitsSigned 16 x = true ↔ -32768 ≤ x ∧ x ≤ 32767 := by
  rw [fitsSigned_iff]; norm_num; omega

theorem fitsSigned32_iff {x : Int} : fitsSigned 32 x = true ↔ -2147483648 ≤ x ∧ x ≤ 2147483647 := by
  rw [fitsSigned_iff]; norm_num; omega

/-- A parameter write that changes the frequency alone checks and writes that register alone: the other two hold what fits. -/
theorem writeParams_freq (s : State) (x : Int) :
    writeParams { paramsOf s with freq := x } s =
      if fitsSigned 16 x then .next { s with freq := BitVec.ofInt 16 x } else .fault (.rangeOverflow .freq) := by
  simp [writeParams, paramsOf, fitsSigned_toInt32]

theorem writeParams_amp (s : State) (x : Int) :
    writeParams { paramsOf s with amp := x } s =
      if fitsSigned 32 x then .next { s with amp := BitVec.ofInt 32 x } else .fault (.rangeOverflow .amp) := by
  simp [writeParams, paramsOf, fitsSigned_toInt16, fitsSigned_toInt32]

theorem writeParams_offs (s : State) (x : Int) :
    writeParams { paramsOf s with offs := x } s =
      if fitsSigned 32 x then .next { s with offs := BitVec.ofInt 32 x } else .fault (.rangeOverflow .offs) := by
  simp [writeParams, paramsOf, fitsSigned_toInt16, fitsSigned_toInt32]

/-- R11 for one register of w bits, read by `get` and written by `set`: a checked write of a value in the register's range
leaves that value in it and changes nothing else, and one of a value outside the range is the fault. -/
theorem checkedWrite_spec {w : Nat} {r : Result} {x lo hi : Int} {get : State → BitVec w} {set : BitVec w → State}
    {f : Fault} (hw : 0 < w) (hr : r = if fitsSigned w x then .next (set (BitVec.ofInt w x)) else .fault f)
    (hget : ∀ v, get (set v) = v) (hfit : fitsSigned w x = true ↔ lo ≤ x ∧ x ≤ hi) :
    (lo ≤ x ∧ x ≤ hi → ∃ t, r = .next t ∧ (get t).toInt = x ∧ t = set (get t)) ∧
    (x < lo ∨ hi < x → r = .fault f) := by
  constructor
  · intro hin
    have hx := hfit.mpr hin
    refine ⟨set (BitVec.ofInt w x), by rw [hr, if_pos hx], ?_, ?_⟩
    · rw [hget, toInt_ofInt_of_fits hw hx]
    · rw [hget]
  · intro hout
    have hx : ¬ fitsSigned w x = true := by rw [hfit]; omega
    rw [hr, if_neg hx]

/-! ### What the edit operations write -/

/-- R113, R114, with MULT of R110 read as the weight of the digit. -/
theorem exec_freqEdit {i : Instr} {k : Int} (s : State)
    (h : (i, k) ∈ [(Instr.editFreqTens, (10 : Int)), (.editFreqUnits, 1)]) :
    exec i s = writeParams { paramsOf s with freq := s.freq.toInt + k * s.qdStep.toInt } s := by
  rw [mul_comm]
  simp only [List.mem_cons, Prod.mk.injEq, List.not_mem_nil, or_false] at h
  obtain ⟨rfl, rfl⟩ | ⟨rfl, rfl⟩ := h <;> rfl

/-- R115 to R117, with MULT of R110 read as the weight of the digit. -/
theorem exec_ampEdit {i : Instr} {k : Int} (s : State)
    (h : (i, k) ∈ [(Instr.editAmpWhole, (10000 : Int)), (.editAmpTenths, 1000), (.editAmpHundredths, 100)]) :
    exec i s = writeParams { paramsOf s with amp := s.amp.toInt + k * s.qdStep.toInt } s := by
  rw [mul_comm]
  simp only [List.mem_cons, Prod.mk.injEq, List.not_mem_nil, or_false] at h
  obtain ⟨rfl, rfl⟩ | ⟨rfl, rfl⟩ | ⟨rfl, rfl⟩ := h <;> rfl

/-- R118 to R120, with MULT of R110 read as the weight of the digit. -/
theorem exec_offsEdit {i : Instr} {k : Int} (s : State)
    (h : (i, k) ∈ [(Instr.editOffsWhole, (10000 : Int)), (.editOffsTenths, 1000), (.editOffsHundredths, 100)]) :
    exec i s = writeParams { paramsOf s with offs := s.offs.toInt + k * s.qdStep.toInt } s := by
  rw [mul_comm]
  simp only [List.mem_cons, Prod.mk.injEq, List.not_mem_nil, or_false] at h
  obtain ⟨rfl, rfl⟩ | ⟨rfl, rfl⟩ | ⟨rfl, rfl⟩ := h <;> rfl

/-- Settles O19: the edit is a checked write of the 16-bit frequency register. -/
theorem frequencyEdits : Obligations.FrequencyEdits := fun s _ _ hi =>
  checkedWrite_spec (get := State.freq) (set := fun v => { s with freq := v }) (by decide)
    ((exec_freqEdit s hi).trans (writeParams_freq s _)) (fun _ => rfl) fitsSigned16_iff

/-- Settles O20: the edit is a checked write of the 32-bit amplitude register. -/
theorem amplitudeEdits : Obligations.AmplitudeEdits := fun s _ _ hi =>
  checkedWrite_spec (get := State.amp) (set := fun v => { s with amp := v }) (by decide)
    ((exec_ampEdit s hi).trans (writeParams_amp s _)) (fun _ => rfl) fitsSigned32_iff

/-- Settles O21: the edit is a checked write of the 32-bit offset register. -/
theorem offsetEdits : Obligations.OffsetEdits := fun s _ _ hi =>
  checkedWrite_spec (get := State.offs) (set := fun v => { s with offs := v }) (by decide)
    ((exec_offsEdit s hi).trans (writeParams_offs s _)) (fun _ => rfl) fitsSigned32_iff

/-! ### Rounding and saturation of a stored code -/

theorem quant_of_rnd_ge {n d : Int} (h : 4095 ≤ rnd n d) : quant n d = 4095#12 := by
  have hq := quant_toNat n d
  rw [clamp_eq_max_min (by decide)] at hq
  exact BitVec.eq_of_toNat_eq (by simp only [BitVec.toNat_ofNat]; omega)

theorem quant_of_rnd_le {n d : Int} (h : rnd n d ≤ 0) : quant n d = 0#12 := by
  have hq := quant_toNat n d
  rw [clamp_eq_max_min (by decide)] at hq
  exact BitVec.eq_of_toNat_eq (by simp only [BitVec.toNat_ofNat]; omega)

/-- An integer that n / d reaches is reached by the rounded value. -/
theorem le_rnd {n d k : Int} (hd : 0 < d) (h : k * d ≤ n) : k ≤ rnd n d := by
  obtain ⟨_, hhi⟩ := rnd_spec (n := n) hd
  have hlt : 2 * d * k < 2 * d * (rnd n d + 1) := by linarith
  exact Int.lt_add_one_iff.mp (lt_of_mul_lt_mul_left hlt (by omega))

/-- An integer that n / d does not exceed is not exceeded by the rounded value. -/
theorem rnd_le {n d k : Int} (hd : 0 < d) (h : n ≤ k * d) : rnd n d ≤ k := by
  obtain ⟨hlo, _⟩ := rnd_spec (n := n) hd
  have hlt : 2 * d * rnd n d < 2 * d * (k + 1) := by linarith
  exact Int.lt_add_one_iff.mp (lt_of_mul_lt_mul_left hlt (by omega))

/-- Settles O43: the nearest integer is `rnd n d`, and the two ends of the range follow from its order. -/
theorem quantizationRoundsAndSaturates : Obligations.QuantizationRoundsAndSaturates := by
  intro n d hd
  obtain ⟨hlo, hhi⟩ := rnd_spec (n := n) hd
  refine ⟨rnd n d, hlo, hhi, ?_, fun hn => ?_, fun hn => ?_⟩
  · rw [quant_toNat, clamp_eq_max_min (by decide)]
  · exact quant_of_rnd_ge (le_rnd hd hn.le)
  · exact quant_of_rnd_le (rnd_le hd (by omega))

/-! ### Construction -/

theorem construct_valid {b : Config.Build} (h : b.valid = true) (ws : List Word) :
    construct b ws = .next { State.resetWith ⟨b, h⟩ with stimulus := ws } := dif_pos h

theorem construct_invalid {b : Config.Build} (h : b.valid = false) (ws : List Word) :
    construct b ws = .refused .illegalParameters := dif_neg (by rw [h]; decide)

/-- `Build.valid` is the conjunction of the ranges of R7. -/
theorem build_valid_iff (b : Config.Build) :
    b.valid = true ↔
      (1 ≤ b.vrefU ∧ b.vrefU ≤ 300000) ∧ (8 ≤ b.gmaxHz ∧ b.gmaxHz ≤ 32000) ∧
      (1 ≤ b.tcNum ∧ b.tcNum < b.tcDen ∧ b.tcDen ≤ 65536) ∧ b.initSc ∈ [16, 32, 64, 128] ∧
      (1 ≤ b.initFreq ∧ b.initFreq ≤ b.gmaxHz / (b.initSc / 16)) ∧ b.initAmp ≤ b.vrefU ∧ b.initOffs ≤ b.vrefU := by
  simp only [Config.Build.valid, Bool.and_eq_true, decide_eq_true_eq, List.mem_cons, List.not_mem_nil, or_false, and_assoc]

/-- Settles O53: construction branches on `Build.valid`, which is R7's ranges. -/
theorem constructionRefusesIllegalParameters : Obligations.ConstructionRefusesIllegalParameters := fun b ws =>
  ⟨fun h => construct_valid h ws, fun h => construct_invalid h ws, build_valid_iff b⟩

end Sys2Proof.Proofs
end

section
/-! PROOFS. The state of 10_state.md: the reset values (R48, R62), the step and its ports (R43 to R45, R170), the writers
of the table and of the output (R31, R32, R160), the saturation pass (R124), and the invariant that every cycle keeps
(R29, R145). -/

namespace Sys2Proof.Proofs

open Sys2Proof Sys2Proof.Machine

/-! ### The step and its ports -/

/-- Settles O6: the step is `fetch`, then `exec`, and each port is the register or the strobe of its name. -/
theorem stepRunsTheDecodedOperation : Obligations.StepRunsTheDecodedOperation := by
  refine ⟨fun s w rest i hs hd => step_eq_exec hs hd, fun s hs => ?_, fun s w rest e hs hd => ?_, fun s t _ => ?_⟩
  · simp [step, fetch, hs]
  · simp [step, fetch, hs, hd]
  · refine ⟨rfl, rfl, rfl, rfl, rfl, rfl, rfl, rfl, rfl, rfl, rfl, ?_⟩
    change t.qdStep.code = _
    cases t.qdStep <;> rfl

/-! ### The reset state -/

/-- A natural number in the nonnegative half of a signed register is read back from it. -/
theorem toInt_ofNat_of_lt {w n : Nat} (h : 2 * n < 2 ^ w) : (BitVec.ofNat w n).toInt = n := by
  have hn : (BitVec.ofNat w n).toNat = n := Nat.mod_eq_of_lt (by omega)
  rw [BitVec.toInt_eq_toNat_of_lt (by rwa [hn]), hn]

/-- The initial parameters of a legal set fit their registers (R7, R11), so a reset leaves them unchanged (R48). -/
theorem paramsOf_resetWith (b : Config.ValidBuild) :
    paramsOf (State.resetWith b) =
      { kind := b.val.initKind, freq := b.val.initFreq, amp := b.val.initAmp, offs := b.val.initOffs,
        sc := b.val.initSc } := by
  obtain ⟨⟨_, hv⟩, ⟨_, hg⟩, _, hsc, ⟨_, hf⟩, ha, ho⟩ := build_ranges b
  have hfreq : b.val.initFreq ≤ 32000 := hf.trans ((Nat.div_le_self _ _).trans hg)
  simp only [paramsOf, State.resetWith, Params.mk.injEq, true_and]
  exact ⟨toInt_ofNat_of_lt (by omega), toInt_ofNat_of_lt (by omega), toInt_ofNat_of_lt (by omega),
    Nat.mod_eq_of_lt (by omega)⟩

/-- The initial parameters of a legal set are in the range of R29. -/
theorem resetWith_paramsInRange (b : Config.ValidBuild) : ParamsInRange (State.resetWith b) := by
  obtain ⟨_, _, _, hsc, ⟨hf1, hf⟩, ha, ho⟩ := build_ranges b
  have hp := paramsOf_resetWith b
  have hfreq : (State.resetWith b).freq.toInt = b.val.initFreq := congrArg Params.freq hp
  have hamp : (State.resetWith b).amp.toInt = b.val.initAmp := congrArg Params.amp hp
  have hoffs : (State.resetWith b).offs.toInt = b.val.initOffs := congrArg Params.offs hp
  have hcount : (State.resetWith b).sc.toNat = b.val.initSc := congrArg Params.sc hp
  have hfmax : (b.val.initFreq : Int) ≤ fmax b b.val.initSc := by unfold fmax fdiv; exact_mod_cast hf
  have hvamp : (b.val.initAmp : Int) ≤ vref b := by unfold vref; exact_mod_cast ha
  have hvoffs : (b.val.initOffs : Int) ≤ vref b := by unfold vref; exact_mod_cast ho
  have hlegal : legalSc b.val.initSc = true := by simpa [legalSc, or_assoc] using hsc
  rw [ParamsInRange, hfreq, hamp, hoffs, hcount]
  exact ⟨hlegal, by omega, hfmax, by omega, hvamp, by omega, hvoffs⟩

theorem resetWith_inv (b : Config.ValidBuild) : Inv (State.resetWith b) :=
  ⟨resetWith_paramsInRange b, rfl, (by decide : 0#4 ≤ 9#4), Nat.zero_lt_succ _, rfl, (nomatch ·)⟩

/-- No generation has run at reset (R64). -/
theorem resetWith_oneConfiguration (b : Config.ValidBuild) : OneConfiguration (State.resetWith b) :=
  .inl ⟨rfl, rfl, fun _ => rfl⟩

/-- Settles O54: the invariant of the initial parameters is the validity of their set. -/
theorem resetIsGood : Obligations.ResetIsGood :=
  ⟨resetWith_inv Config.tcfg, fun b => ⟨resetWith_inv b, resetWith_oneConfiguration b⟩⟩

/-- Settles O7: the parameters are those that fit their registers; every other value is written as it is. -/
theorem resetCycleValues : Obligations.ResetCycleValues := by
  intro s g
  have hp := paramsOf_resetWith s.build
  exact ⟨_, rfl, rfl, rfl, rfl, rfl, congrArg Params.freq hp, congrArg Params.amp hp, congrArg Params.offs hp,
    congrArg Params.sc hp, rfl, rfl, rfl, rfl, rfl, rfl, rfl, rfl, rfl, fun _ => rfl, rfl, rfl, rfl, rfl, rfl⟩

/-! ### The saturation pass -/

/-- Settles O25: `sat_spec` gives the clamped values, which are read back from the registers because they fit. -/
theorem saturationClamps : Obligations.SaturationClamps := by
  intro s
  obtain ⟨hbad, hgood⟩ := sat_spec s.build (paramsOf s)
  constructor
  · intro hl
    obtain ⟨q, hq, hkind, hsc, hfreq, hamp, hoffs, _⟩ := hgood hl
    obtain ⟨hread, hlq⟩ := paramsOf_sat hq s
    have hf := (fmax_range s.build hlq).1
    have hv := (vref_range s.build).1
    rw [clamp_eq_max_min hf, hsc] at hfreq
    rw [clamp_eq_max_min (by omega)] at hamp hoffs
    refine ⟨withParams q s, execSaturate_next_iff.mpr ⟨q, hq, rfl⟩, ?_, ?_, ?_, ?_, ?_, inRange_of_sat hq rfl⟩
    · exact (congrArg Params.sc hread).trans hsc
    · exact (congrArg Params.freq hread).trans hfreq
    · exact (congrArg Params.amp hread).trans hamp
    · exact (congrArg Params.offs hread).trans hoffs
    · simp [withParams, hkind, paramsOf]
  · intro hl
    change orFault (sat s.build (paramsOf s)) _ = _
    rw [hbad hl, orFault_error]

/-! ### Who writes the table and the output -/

@[simp] theorem sampled_mode (c d : Bool) (now : BitVec 32) (s : State) : (sampled c d now s).mode = s.mode := rfl

/-- Only the Calculating operation writes BUF, INTERVAL and RUN_SC (R31, R32, R63). -/
theorem runMode_keeps_table {s s2 : State} (h : runMode s = .next s2) (hm : s.mode ≠ 2#2) :
    s2.buf = s.buf ∧ s2.interval = s.interval ∧ s2.runSc = s.runSc := by
  obtain ⟨_, _, rfl⟩ | ⟨_, p, q, _, _, rfl⟩ | ⟨hc, _⟩ | ⟨_, rfl⟩ := runMode_inv h
  · split <;> exact ⟨rfl, rfl, rfl⟩
  · simp [withParams]
  · exact absurd hc hm
  · exact ⟨rfl, rfl, rfl⟩

/-- RUN_SC after a Calculating operation is the length of the table it wrote (R32). -/
theorem calculated_runSc {b : Config.ValidBuild} {p q : Params} (h : sat b p = .ok q) (s : State) :
    (calculated q s).runSc.toNat = q.sc :=
  congrArg Params.sc (paramsOf_sat h s).1

/-- No entry past the new table is written (R63). -/
theorem calculated_read_of_ge {b : Config.ValidBuild} {p q : Params} (h : sat b p = .ok q) {s : State}
    (hwf : s.buf.wf = true) {i : Nat} (hi : (calculated q s).runSc.toNat ≤ i) :
    (calculated q s).buf.read i = s.buf.read i := by
  rw [calculated_runSc h] at hi
  have h128 := (legalSc_le (paramsOf_sat h s).2).2
  exact (Memory.read_writeTable _ hwf i h128).trans (if_neg (Nat.not_lt.mpr hi))

/-- Settles O38: of the mode operations only Calculating writes the table, and a table write stops at its length. -/
theorem onlyCalculatingWritesTheTable : Obligations.OnlyCalculatingWritesTheTable := by
  intro s t m f c d now h
  obtain ⟨s2, hrun, rfl⟩ := exec_cycIterate_inv h
  refine ⟨fun hm => (runMode_keeps_table hrun hm :), fun hm hwf i hi => ?_⟩
  rw [runMode_calculating ((sampled_mode c d now s).trans hm), execIterCalculating_next_iff] at hrun
  obtain ⟨q, hq, rfl⟩ := hrun
  exact (calculated_read_of_ge (s := sampled c d now s) hq hwf hi :)

/-- Outside Running a mode operation leaves DAC_WE, DAC_CODE, IDX and LAST_T (R43, R184). -/
theorem runMode_keeps_output {s s2 : State} (h : runMode s = .next s2) (hm : s.mode ≠ 0#2) :
    s2.dacWe = s.dacWe ∧ s2.dacCode = s.dacCode ∧ s2.idx = s.idx ∧ s2.lastT = s.lastT := by
  obtain ⟨hr, _⟩ | ⟨_, p, q, _, _, rfl⟩ | ⟨_, q, _, rfl⟩ | ⟨_, rfl⟩ := runMode_inv h
  · exact absurd hr hm
  · simp [withParams]
  · exact ⟨rfl, rfl, rfl, rfl⟩
  · exact ⟨rfl, rfl, rfl, rfl⟩

/-- Settles O49: in Running the poll emits exactly at or after the deadline; no other mode writes the output. -/
theorem samplesOnlyFromRunning : Obligations.SamplesOnlyFromRunning := by
  intro s t m f c d now h
  obtain ⟨s2, hrun, rfl⟩ := exec_cycIterate_inv h
  by_cases hm : s.mode = 0#2
  · rw [runMode_running ((sampled_mode c d now s).trans hm), execSchedPoll_next_iff] at hrun
    obtain ⟨hl, rfl⟩ := hrun
    split
    next hdue =>
      have hdue' : s.interval.toNat ≤ (now - s.lastT).toNat := hdue
      have hcode : bufRead (sampled c d now s) (pollIndex (sampled c d now s)) =
          s.buf.read (s.idx.toNat % s.runSc.toNat) :=
        congrArg s.buf.read (pollIndex_toNat hl)
      exact ⟨⟨fun _ => ⟨hm, hdue'⟩, fun _ => rfl⟩, fun _ => ⟨hcode, rfl, rfl⟩, (nomatch ·)⟩
    next hearly =>
      exact ⟨⟨(nomatch ·), fun hdue => absurd hdue.2 hearly⟩, (nomatch ·), fun _ => ⟨rfl, rfl, rfl⟩⟩
  · obtain ⟨hwe, hcode, hidx, hlast⟩ := runMode_keeps_output hrun hm
    have hoff : (applyPresses m f (iterationFlags s s2)).dacWe ≠ true := ne_true_of_eq_false hwe
    exact ⟨⟨fun hon => absurd hon hoff, fun hr => absurd hr.1 hm⟩, fun hon => absurd hon hoff,
      fun _ => ⟨hcode, hidx, hlast⟩⟩

/-! ### The invariant -/

/-- The interval of a legal set stays below 62500 (R145): the numerator of the timing compensation is less than its
denominator, and a table has at least 16 entries. -/
theorem intervalOf_lt (b : Config.ValidBuild) {f : Int} {n : Nat} (hf : 1 ≤ f) (hn : 16 ≤ n) :
    (intervalOf b f n).toNat < 62500 := by
  obtain ⟨_, _, ⟨hnum, hlt, hden⟩, _⟩ := build_ranges b
  have hfn : (16 : Int) ≤ f * n := by nlinarith
  have hd : (16 : Int) * b.val.tcDen ≤ f * n * b.val.tcDen := mul_le_mul_of_nonneg_right hfn (by omega)
  obtain ⟨hlo, hhi⟩ := rnd_spec (n := usPerS * b.val.tcNum) (d := f * n * b.val.tcDen) (by omega)
  have hnonneg : 0 ≤ rnd (usPerS * b.val.tcNum) (f * n * b.val.tcDen) :=
    le_rnd (by omega) (by unfold usPerS; omega)
  have hbound : rnd (usPerS * b.val.tcNum) (f * n * b.val.tcDen) < 62500 := by
    refine lt_of_mul_lt_mul_left (a := 2 * (f * n * b.val.tcDen)) ?_ (by omega)
    unfold usPerS at hlo ⊢
    omega
  rw [intervalOf, if_pos (by omega), BitVec.toNat_ofInt]
  omega

/-- A mode operation keeps the invariant. -/
theorem runMode_keeps_inv {s s2 : State} (hi : Inv s) (h : runMode s = .next s2) : Inv s2 := by
  obtain ⟨hp, hrun, hcur, hint, hbuf, hflag⟩ := hi
  obtain ⟨_, _, rfl⟩ | ⟨_, p, q, _, hq, rfl⟩ | ⟨_, q, hq, rfl⟩ | ⟨_, rfl⟩ := runMode_inv h
  · split <;> exact ⟨hp, hrun, hcur, hint, hbuf, hflag⟩
  · rw [configDisplay_eq]
    exact ⟨inRange_of_sat hq rfl, hrun, deriveCursor_le _ _, hint, hbuf, hflag⟩
  · have hr : ParamsInRange (withParams q s) := inRange_of_sat hq rfl
    obtain ⟨hread, hl⟩ := paramsOf_sat hq s
    have hf : 1 ≤ q.freq := hr.2.1.trans_eq (congrArg Params.freq hread)
    have hlen := legalSc_le hl
    refine ⟨hr, ?_, (by decide : 0#4 ≤ 9#4), intervalOf_lt s.build hf hlen.1,
      Memory.writeTable_wf _ hbuf hlen.2, hflag⟩
    rwa [calculated_runSc hq]
  · exact ⟨hp, hrun, hcur, hint, hbuf, hflag⟩

/-- The three things a cycle can do: reset, iterate, or only count its presses (R82, R84). -/
theorem exec_cycle_inv {w : Word} {i : Instr} {s t : State} (hd : decodeProgramWord w = .ok i) (h : exec i s = .next t) :
    t = { State.resetWith s.build with stimulus := s.stimulus } ∨
    (∃ m f c d now s2, runMode (sampled c d now s) = .next s2 ∧ t = applyPresses m f (iterationFlags s s2)) ∨
    (∃ m f, t = pressOnly m f s) := by
  obtain ⟨g, rfl⟩ | ⟨m, f, c, d, now, rfl⟩ | ⟨f, g, rfl⟩ | ⟨g, rfl⟩ | ⟨g, rfl⟩ := decodeProgramWord_cycle hd
  · cases h; exact .inl rfl
  · obtain ⟨s2, hrun, ht⟩ := exec_cycIterate_inv h
    exact .inr (.inl ⟨m, f, c, d, now, s2, hrun, ht⟩)
  all_goals cases h; exact .inr (.inr ⟨_, _, rfl⟩)

/-- A cycle keeps the invariant: the sampling, the flags and the presses write none of its registers but STARTED and
CFG_PREV, and an iteration sets STARTED. -/
theorem exec_cycle_keeps_inv {w : Word} {i : Instr} {s t : State} (hi : Inv s) (hd : decodeProgramWord w = .ok i)
    (h : exec i s = .next t) : Inv t := by
  obtain rfl | ⟨m, f, c, d, now, s2, hrun, rfl⟩ | ⟨m, f, rfl⟩ := exec_cycle_inv hd h
  · exact resetWith_inv s.build
  · have hs : Inv (sampled c d now s) := hi
    obtain ⟨hp, hsc, hcur, hint, hbuf, _⟩ := runMode_keeps_inv hs hrun
    exact ⟨hp, hsc, hcur, hint, hbuf, fun _ => rfl⟩
  · exact hi

/-- Settles O55: a step runs a decoded cycle, and each of the three kinds of cycle keeps the invariant. -/
theorem stepKeepsTheInvariant : Obligations.StepKeepsTheInvariant := by
  intro s t hi h
  obtain ⟨w, rest, i, _, hd, hx⟩ := step_next_inv h
  have hi' : Inv { s with stimulus := rest } := hi
  exact exec_cycle_keeps_inv hi' hd hx

/-! ### Progress from the invariant -/

/-- From the invariant every cycle answers: a mode operation needs legal sample counts alone (R28, R205). -/
theorem exec_cycle_ok {w : Word} {i : Instr} {s : State} (hi : Inv s) (hd : decodeProgramWord w = .ok i) :
    ∃ t, exec i s = .next t := by
  obtain ⟨g, rfl⟩ | ⟨m, f, c, d, now, rfl⟩ | ⟨f, g, rfl⟩ | ⟨g, rfl⟩ | ⟨g, rfl⟩ := decodeProgramWord_cycle hd
  · exact ⟨_, rfl⟩
  · obtain ⟨⟨hsc, _⟩, hrunSc, _⟩ := hi
    obtain ⟨s2, hrun⟩ := runMode_ok (s := sampled c d now s) hsc hrunSc
    exact ⟨_, (execCycIterate_eq m f c d now s).trans (by rw [hrun, andThen_next])⟩
  all_goals exact ⟨_, rfl⟩

/-- A mode operation leaves the input bundles to come. -/
theorem runMode_stimulus {s s2 : State} (h : runMode s = .next s2) : s2.stimulus = s.stimulus := by
  obtain ⟨_, _, rfl⟩ | ⟨_, p, q, _, _, rfl⟩ | ⟨_, q, _, rfl⟩ | ⟨_, rfl⟩ := runMode_inv h
  · split <;> rfl
  · rw [configDisplay_stimulus]; rfl
  · rfl
  · rfl

/-- A cycle leaves the input bundles to come, a reset cycle among them. -/
theorem exec_cycle_stimulus {w : Word} {i : Instr} {s t : State} (hd : decodeProgramWord w = .ok i)
    (h : exec i s = .next t) : t.stimulus = s.stimulus := by
  obtain rfl | ⟨m, f, c, d, now, s2, hrun, rfl⟩ | ⟨m, f, rfl⟩ := exec_cycle_inv hd h
  · rfl
  · exact (runMode_stimulus hrun :)
  · rfl

/-- From the invariant a step on a decoded bundle answers, with the invariant and without the bundle. -/
theorem step_ok {s : State} {w : Word} {rest : List Word} {i : Instr} (hi : Inv s) (hs : s.stimulus = w :: rest)
    (hd : decodeProgramWord w = .ok i) : ∃ t, step s = .next t ∧ t.stimulus = rest ∧ Inv t := by
  have hi' : Inv { s with stimulus := rest } := hi
  obtain ⟨t, ht⟩ := exec_cycle_ok hi' hd
  exact ⟨t, (step_eq_exec hs hd).trans ht, exec_cycle_stimulus hd ht, exec_cycle_keeps_inv hi' hd ht⟩

/-- Settles O56: a step that does not answer from the invariant is one without a bundle or on a word that is none. -/
theorem stepMeetsNoModelFault : Obligations.StepMeetsNoModelFault := by
  obtain ⟨_, hempty, hword, _⟩ := stepRunsTheDecodedOperation
  refine fun s hi => ⟨fun r h => ?_, fun w rest hs hw => step_ok hi hs (decode_in38 hw)⟩
  cases hs : s.stimulus with
  | nil => exact nomatch (hempty s hs).symm.trans h
  | cons w rest =>
    cases hd : decodeProgramWord w with
    | error e => exact nomatch (hword s w rest e hs hd).symm.trans h
    | ok i =>
      obtain ⟨t, ht, _⟩ := step_ok hi hs hd
      exact nomatch ht.symm.trans h

end Sys2Proof.Proofs
end

section
/-! PROOFS. The memory of 20_memory.md: the sample buffer as data (R60, R61), the quarter-wave ROM (R66, R138), the
table that a Calculating iteration writes (R63, R185), and the atomic configuration (R73). -/

namespace Sys2Proof.Proofs

open Sys2Proof Sys2Proof.Machine

/-! ### What a Calculating iteration leaves -/

theorem paramsOf_calculated {b : Config.ValidBuild} {p q : Params} (h : sat b p = .ok q) (s : State) :
    paramsOf (calculated q s) = q :=
  (paramsOf_sat h s).1

/-- The table below the saturated sample count holds Gen of the saturated parameters; the rest is as before (R63, R135). -/
theorem calculated_read {b : Config.ValidBuild} {p q : Params} (h : sat b p = .ok q) {s : State}
    (hwf : s.buf.wf = true) (i : Nat) :
    (calculated q s).buf.read i =
      if i < q.sc then genCode (vref s.build) q.kind q.amp q.offs q.sc i else s.buf.read i :=
  Memory.read_writeTable _ hwf i (legalSc_le (paramsOf_sat h s).2).2

/-- The frame of R185; KIND is not in it, because the saturation pass leaves the kind. -/
theorem calculated_frame {q : Params} {s : State} (hkind : q.kind = s.kind) :
    calculated q s =
      { s with freq := (calculated q s).freq, amp := (calculated q s).amp, offs := (calculated q s).offs
               sc := (calculated q s).sc, buf := (calculated q s).buf, interval := (calculated q s).interval
               runSc := (calculated q s).runSc, editCursor := (calculated q s).editCursor
               mode := (calculated q s).mode, fieldCnt := (calculated q s).fieldCnt } := by
  simp only [calculated, withParams, hkind]

/-- Settles O33: on a count that the pass accepts, the iteration leaves `calculated q s`, q being the saturated
parameters. -/
theorem calculatingIteration : Obligations.CalculatingIteration := by
  intro s hwf hl
  obtain ⟨_, hgood⟩ := sat_spec s.build (paramsOf s)
  obtain ⟨q, hq, hkind, _⟩ := hgood hl
  exact ⟨calculated q s, q, execIterCalculating_next_iff.mpr ⟨q, hq, rfl⟩, hq, paramsOf_calculated hq s,
    calculated_read hq hwf, rfl, rfl, rfl, rfl, rfl, calculated_frame hkind⟩

/-! ### The atomic configuration -/

/-- The saturation pass returns parameters in the range of R29 (R127). -/
theorem sat_ok_range {b : Config.ValidBuild} {p q : Params} (h : sat b p = .ok q) :
    (1 ≤ q.freq ∧ q.freq ≤ fmax b q.sc) ∧ (0 ≤ q.amp ∧ q.amp ≤ vref b) ∧ (0 ≤ q.offs ∧ q.offs ≤ vref b) := by
  obtain ⟨hbad, hgood⟩ := sat_spec b p
  cases hl : legalSc (max p.sc 16) with
  | false => exact nomatch (hbad hl).symm.trans h
  | true =>
    obtain ⟨q', hq', _, _, _, _, _, hfreq, hamp, hoffs, _⟩ := hgood hl
    obtain rfl : q' = q := Except.ok.inj (hq'.symm.trans h)
    exact ⟨hfreq, hamp, hoffs⟩

/-- Only these four fields say whether a state holds one configuration. -/
theorem oneConfiguration_of_eq {s t : State} (h : OneConfiguration s) (hbuild : t.build = s.build)
    (hbuf : t.buf = s.buf) (hint : t.interval = s.interval) (hrun : t.runSc = s.runSc) : OneConfiguration t := by
  unfold OneConfiguration
  rwa [hbuild, hbuf, hint, hrun]

/-- A Calculating operation leaves a new configuration, whatever was there before (R73): its interval, length and table
all come from the one tuple of saturated parameters. -/
theorem calculated_oneConfiguration {s : State} {q : Params} (hq : sat s.build (paramsOf s) = .ok q)
    (hwf : s.buf.wf = true) : OneConfiguration (calculated q s) := by
  obtain ⟨⟨hf1, hf2⟩, ⟨ha0, ha1⟩, ho0, ho1⟩ := sat_ok_range hq
  refine .inr ⟨q.kind, q.freq, q.amp, q.offs, ?_⟩
  rw [calculated_runSc hq]
  exact ⟨hf1, hf2, ha0, ha1, ho0, ho1, rfl, fun i hi => (calculated_read hq hwf i).trans (if_pos hi)⟩

/-- A mode operation leaves the build parameters (R223). -/
theorem runMode_build {s s2 : State} (h : runMode s = .next s2) : s2.build = s.build := by
  obtain ⟨_, _, rfl⟩ | ⟨_, p, q, _, _, rfl⟩ | ⟨_, q, _, rfl⟩ | ⟨_, rfl⟩ := runMode_inv h
  · split <;> rfl
  · rw [configDisplay_build]; rfl
  · rfl
  · rfl

/-- A mode operation keeps the configuration whole: Calculating replaces it, every other mode leaves all of it. -/
theorem runMode_keeps_oneConfiguration {s s2 : State} (hwf : s.buf.wf = true) (hone : OneConfiguration s)
    (h : runMode s = .next s2) : OneConfiguration s2 := by
  by_cases hm : s.mode = 2#2
  · rw [runMode_calculating hm, execIterCalculating_next_iff] at h
    obtain ⟨q, hq, rfl⟩ := h
    exact calculated_oneConfiguration hq hwf
  · obtain ⟨hbuf, hint, hrun⟩ := runMode_keeps_table h hm
    exact oneConfiguration_of_eq hone (runMode_build h) hbuf hint hrun

/-- A cycle keeps the configuration whole: the sampling, the flags and the presses write none of its registers. -/
theorem exec_cycle_keeps_oneConfiguration {w : Word} {i : Instr} {s t : State} (hwf : s.buf.wf = true)
    (hone : OneConfiguration s) (hd : decodeProgramWord w = .ok i) (h : exec i s = .next t) : OneConfiguration t := by
  obtain rfl | ⟨m, f, c, d, now, s2, hrun, rfl⟩ | ⟨m, f, rfl⟩ := exec_cycle_inv hd h
  · exact oneConfiguration_of_eq (resetWith_oneConfiguration s.build) rfl rfl rfl rfl
  · have hs : OneConfiguration (sampled c d now s) := oneConfiguration_of_eq hone rfl rfl rfl rfl
    have hs2 : OneConfiguration s2 := runMode_keeps_oneConfiguration (s := sampled c d now s) hwf hs hrun
    exact oneConfiguration_of_eq hs2 rfl rfl rfl rfl
  · exact oneConfiguration_of_eq hone rfl rfl rfl rfl

/-- Settles O58: a step runs a decoded cycle, and of the invariant the table write needs the canonical buffer alone. -/
theorem stepKeepsOneConfiguration : Obligations.StepKeepsOneConfiguration := by
  intro s t hi hone h
  obtain ⟨_, _, _, _, hwf, _⟩ := hi
  obtain ⟨w, rest, i, _, hd, hx⟩ := step_next_inv h
  have hone' : OneConfiguration { s with stimulus := rest } := oneConfiguration_of_eq hone rfl rfl rfl rfl
  exact exec_cycle_keeps_oneConfiguration (s := { s with stimulus := rest }) hwf hone' hd hx

/-! ### The buffer as data -/

theorem wfFrom_cons_iff {lo b : Nat} {w : Code} {m : Memory} :
    Memory.wfFrom lo ((b, w) :: m) = true ↔
      lo ≤ b ∧ b < 128 ∧ w ≠ Memory.unlisted ∧ Memory.wfFrom (b + 1) m = true := by
  simp [Memory.wfFrom, and_assoc]

@[simp] theorem read_nil (i : Nat) : Memory.read [] i = Memory.unlisted := rfl

@[simp] theorem read_cons_self (b : Nat) (w : Code) (m : Memory) : Memory.read ((b, w) :: m) b = w := if_pos rfl

theorem read_cons_ne {i b : Nat} (h : i ≠ b) (w : Code) (m : Memory) :
    Memory.read ((b, w) :: m) i = Memory.read m i := if_neg h

/-- No entry is listed before the head of a canonical buffer. -/
theorem head_le_of_read_ne {lo b i : Nat} {w : Code} {m : Memory} (h : Memory.wfFrom lo ((b, w) :: m) = true)
    (hread : Memory.read ((b, w) :: m) i ≠ Memory.unlisted) : b ≤ i := by
  obtain ⟨_, hb, hw, hm⟩ := wfFrom_cons_iff.mp h
  have hfrom : Memory.wfFrom b ((b, w) :: m) = true := wfFrom_cons_iff.mpr ⟨le_rfl, hb, hw, hm⟩
  by_contra hlt
  exact hread (Memory.read_below hfrom (by omega))

/-- Equal reads of two canonical buffers with one head are equal reads of their tails: up to the head both tails are
unlisted. -/
theorem read_tail_eq {b : Nat} {w : Code} {m m' : Memory} (hm : Memory.wfFrom (b + 1) m = true)
    (hm' : Memory.wfFrom (b + 1) m' = true)
    (h : ∀ i, Memory.read ((b, w) :: m) i = Memory.read ((b, w) :: m') i) (i : Nat) :
    Memory.read m i = Memory.read m' i := by
  by_cases hi : i = b
  · rw [Memory.read_below hm (by omega), Memory.read_below hm' (by omega)]
  · simpa only [read_cons_ne hi] using h i

/-- The canonical form is unique: the heads are the first listed entry of each buffer, and the tails follow. -/
theorem canonical_eq_of_read_eq : ∀ {m m' : Memory} {lo : Nat}, Memory.wfFrom lo m = true → Memory.wfFrom lo m' = true →
    (∀ i, Memory.read m i = Memory.read m' i) → m = m'
  | [], [], _, _, _, _ => rfl
  | [], (b, w) :: m', _, _, hm', h => by
    obtain ⟨_, _, hw, _⟩ := wfFrom_cons_iff.mp hm'
    exact absurd (by simpa using (h b).symm) hw
  | (b, w) :: m, [], _, hm, _, h => by
    obtain ⟨_, _, hw, _⟩ := wfFrom_cons_iff.mp hm
    exact absurd (by simpa using h b) hw
  | (b, w) :: m, (b', w') :: m', _, hm, hm', h => by
    obtain ⟨_, _, hw, htail⟩ := wfFrom_cons_iff.mp hm
    obtain ⟨_, _, hw', htail'⟩ := wfFrom_cons_iff.mp hm'
    have hle : b ≤ b' := head_le_of_read_ne hm (by rwa [h b', read_cons_self])
    have hge : b' ≤ b := head_le_of_read_ne hm' (by rwa [← h b, read_cons_self])
    obtain rfl : b = b' := le_antisymm hle hge
    obtain rfl : w = w' := by simpa using h b
    rw [canonical_eq_of_read_eq htail htail' (read_tail_eq htail htail' h)]

/-- Settles O52: the canonical form from index 0 on is unique. -/
theorem canonicalBuffersAreEqualData : Obligations.CanonicalBuffersAreEqualData :=
  fun _ _ hm hm' h => canonical_eq_of_read_eq hm hm' h

/-! ### The sine of every sample -/

/-- The phase of a sample in each half wave, counted from the ends of the half by k samples (R138). -/
theorem phase_eq {n k : Nat} (hn : legalSc n = true) (hk : k ≤ n / 4) :
    k * (128 / n) ≤ 32 ∧ (n / 2 - k) * (128 / n) = 64 - k * (128 / n) ∧
      (n / 2 + k) * (128 / n) = 64 + k * (128 / n) ∧ (n - k) * (128 / n) = 128 - k * (128 / n) := by
  rcases legalSc_cases hn with rfl | rfl | rfl | rfl <;> omega

section
variable {i n j : Nat}

theorem sinf_first_quarter (hj : j ≤ 32) (h : i * (128 / n) = j) : sinf i n = sinAt j := by
  rw [sinf, h]; exact if_pos hj

theorem sinf_second_quarter (hj : j ≤ 32) (h : i * (128 / n) = 64 - j) : sinf i n = sinAt j := by
  have hback : 64 - (64 - j) = j := by omega
  rcases hj.eq_or_lt with rfl | hlt
  · exact sinf_first_quarter le_rfl h
  · rw [sinf, h]
    simp only [hback]
    rw [if_neg (by omega), if_pos (by omega)]

/-- At j = 0 the phase is still in the second quarter: both signs agree, because the sine there is 0. -/
theorem sinf_third_quarter (hj : j ≤ 32) (h : i * (128 / n) = 64 + j) : sinf i n = -sinAt j := by
  rcases Nat.eq_zero_or_pos j with rfl | hpos
  · exact sinf_second_quarter (j := 0) hj h
  · rw [sinf, h]
    simp only [Nat.add_sub_cancel_left]
    rw [if_neg (by omega), if_neg (by omega), if_pos (by omega)]

theorem sinf_fourth_quarter (hpos : 0 < j) (hj : j ≤ 32) (h : i * (128 / n) = 128 - j) : sinf i n = -sinAt j := by
  have hback : 128 - (128 - j) = j := by omega
  rcases hj.eq_or_lt with rfl | hlt
  · exact sinf_third_quarter le_rfl h
  · rw [sinf, h]
    simp only [hback]
    rw [if_neg (by omega), if_neg (by omega), if_neg (by omega)]

end

/-- Settles O60: the ROM's hexadecimal column is `sinAt`, and each clause is one quarter wave of `sinf`. -/
theorem sineOfEverySampleIsTheRoms : Obligations.SineOfEverySampleIsTheRoms := by
  unfold Obligations.SineOfEverySampleIsTheRoms
  intro rom n k hn hk
  have hrom : ∀ j, rom.getD j 0 = sinAt j := fun _ => rfl
  obtain ⟨hj, hsecond, hthird, hfourth⟩ := phase_eq hn hk
  rw [hrom]
  refine ⟨sinf_first_quarter hj rfl, sinf_second_quarter hj hsecond, sinf_third_quarter hj hthird, fun hpos => ?_⟩
  have hstep : 0 < 128 / n := Nat.div_pos (legalSc_le hn).2 (by have := (legalSc_le hn).1; omega)
  exact sinf_fourth_quarter (Nat.mul_pos hpos hstep) hj hfourth

end Sys2Proof.Proofs
end

section
/-! PROOFS. The encoding of 30_encoding.md: the decoder and the encoder undo each other (R80, R82, R83), the stimulus lines
assemble to the bundles of their cycles (R87, R88), and the operations that the selectors name, run in the order of R84. -/

namespace Sys2Proof.Proofs

open Sys2Proof Sys2Proof.Machine

/-! ### The fields of a word -/

/-- A field of n bits under bits that are all above it is read back. -/
theorem extractLsb'_or_setWidth {n : Nat} (hn : n ≤ 40) {hi : Word} (v : BitVec n)
    (h : ∀ k < n, hi.getLsbD k = false) : (hi ||| v.setWidth 40).extractLsb' 0 n = v := by
  apply BitVec.eq_of_getLsbD_eq
  intro k hk
  simp only [BitVec.getLsbD_extractLsb', BitVec.getLsbD_or, BitVec.getLsbD_setWidth, zero_add, h k hk, hk,
    (by omega : k < 40), decide_true, Bool.true_and, Bool.false_or]

/-- Bit n above the n bits below it is the field of n + 1 bits. -/
theorem bitAt_or_extractLsb' (w : Word) (n : Nat) :
    bitAt n (w.getLsbD n) ||| (w.extractLsb' 0 n).setWidth 40 = (w.extractLsb' 0 (n + 1)).setWidth 40 := by
  apply BitVec.eq_of_getLsbD_eq
  intro k hk
  simp only [BitVec.getLsbD_or, getLsbD_bitAt, BitVec.getLsbD_setWidth, BitVec.getLsbD_extractLsb', hk, zero_add,
    decide_true, Bool.true_and, Bool.and_true]
  by_cases hkn : k = n
  · simp [hkn]
  · simp [hkn, (by omega : k < n + 1 ↔ k < n)]

theorem setWidth_extractLsb'_of_lt {w : Word} {n : Nat} (h : w.toNat < 2 ^ n) :
    (w.extractLsb' 0 n).setWidth 40 = w := by
  apply BitVec.eq_of_toNat_eq
  rw [BitVec.toNat_setWidth, BitVec.extractLsb'_toNat, Nat.shiftRight_zero, Nat.mod_eq_of_lt h,
    Nat.mod_eq_of_lt w.isLt]

@[simp] theorem bitAt_false (n : Nat) : bitAt n false = 0#40 := rfl

/-! ### The cycle operation of a bundle, by its control bits -/

section
variable {w : Word}

theorem decodeIn38_reset (h37 : w.getLsbD 37 = true) : decodeIn38 w = .cycReset (w.extractLsb' 0 37) := by
  simp only [decodeIn38, h37, if_true]

theorem decodeIn38_iterate (h37 : w.getLsbD 37 = false) (h36 : w.getLsbD 36 = true) :
    decodeIn38 w = .cycIterate (w.getLsbD 35) (w.getLsbD 34) (w.getLsbD 33) (w.getLsbD 32) (w.extractLsb' 0 32) := by
  simp only [decodeIn38, h37, h36, if_true, Bool.false_eq_true, if_false]

theorem decodeIn38_modePress (h37 : w.getLsbD 37 = false) (h36 : w.getLsbD 36 = false) (h35 : w.getLsbD 35 = true) :
    decodeIn38 w = .cycModePress (w.getLsbD 34) (w.extractLsb' 0 34) := by
  simp only [decodeIn38, h37, h36, h35, if_true, Bool.false_eq_true, if_false]

theorem decodeIn38_fieldPress (h37 : w.getLsbD 37 = false) (h36 : w.getLsbD 36 = false) (h35 : w.getLsbD 35 = false)
    (h34 : w.getLsbD 34 = true) : decodeIn38 w = .cycFieldPress (w.extractLsb' 0 34) := by
  simp only [decodeIn38, h37, h36, h35, h34, if_true, Bool.false_eq_true, if_false]

theorem decodeIn38_idle (h37 : w.getLsbD 37 = false) (h36 : w.getLsbD 36 = false) (h35 : w.getLsbD 35 = false)
    (h34 : w.getLsbD 34 = false) : decodeIn38 w = .cycIdle (w.extractLsb' 0 34) := by
  simp only [decodeIn38, h37, h36, h35, h34, Bool.false_eq_true, if_false]

end

/-! ### Decoding what was encoded -/

/-- A field has no bit above its width. -/
theorem getLsbD_setWidth_of_ge {n k : Nat} (v : BitVec n) (hk : n ≤ k) : (v.setWidth 40).getLsbD k = false := by
  rw [BitVec.getLsbD_setWidth, BitVec.getLsbD_of_ge v k hk, Bool.and_false]

theorem getLsbD_bitAt_of_ne {n k : Nat} (b : Bool) (h : k ≠ n) : (bitAt n b).getLsbD k = false := by
  rw [getLsbD_bitAt, decide_eq_false h, Bool.and_false]

theorem getLsbD_bitAt_self {n : Nat} (b : Bool) (h : n < 40) : (bitAt n b).getLsbD n = b := by
  rw [getLsbD_bitAt, decide_eq_true h, decide_eq_true rfl, Bool.and_true, Bool.and_true]

/-- The decoder reads every control bit and operand of a cycle from where the encoder puts it. -/
theorem decodeIn38_encode {i : Instr} (h : (encode i).fmt = .in38) : decodeIn38 (encode i).word = i := by
  cases i
  case' cycReset g => rw [encode, decodeIn38_reset, extractLsb'_or_setWidth (by decide)]
  case' cycIterate m f c d now => rw [encode, decodeIn38_iterate, extractLsb'_or_setWidth (by decide)]
  case' cycModePress f g => rw [encode, decodeIn38_modePress, extractLsb'_or_setWidth (by decide)]
  case' cycFieldPress g => rw [encode, decodeIn38_fieldPress, extractLsb'_or_setWidth (by decide)]
  case' cycIdle g =>
    rw [encode, ← BitVec.zero_or (x := g.setWidth 40), decodeIn38_idle, extractLsb'_or_setWidth (by decide)]
  all_goals try contradiction
  all_goals
    intros
    simp (disch := omega) only [BitVec.getLsbD_or, BitVec.getLsbD_zero, getLsbD_bitAt_of_ne, getLsbD_bitAt_self,
      getLsbD_setWidth_of_ge, Bool.or_false, Bool.false_or]

theorem encode_eq_in38 {i : Instr} (h : (encode i).fmt = .in38) : encode i = ⟨.in38, (encode i).word⟩ :=
  congrArg (Selector.mk · (encode i).word) h

theorem decode_encode_of_in38 {i : Instr} (hfit : Laws.EncodeFits.Statement i) (h : (encode i).fmt = .in38) :
    decode (encode i) = .ok i := by
  have hlt : (encode i).word.toNat < 2 ^ 38 := by rwa [Laws.EncodeFits.Statement, h] at hfit
  rw [encode_eq_in38 h, decode_in38 hlt, decodeIn38_encode h]

/-- Settles O1: the word of a cycle fits a bundle and is read back; the other words are short enough to evaluate. -/
theorem decodeOfEncodeIsTheInstruction : Obligations.DecodeOfEncodeIsTheInstruction := by
  intro i
  cases i with
  | cycReset g => exact decode_encode_of_in38 (Laws.EncodeFits.cycReset g) rfl
  | cycIterate m f c d now => exact decode_encode_of_in38 (Laws.EncodeFits.cycIterate m f c d now) rfl
  | cycModePress f g => exact decode_encode_of_in38 (Laws.EncodeFits.cycModePress f g) rfl
  | cycFieldPress g => exact decode_encode_of_in38 (Laws.EncodeFits.cycFieldPress g) rfl
  | cycIdle g => exact decode_encode_of_in38 (Laws.EncodeFits.cycIdle g) rfl
  | qdNoEdgePrevLow c d => cases c <;> cases d <;> rfl
  | qdNoEdgeClkHigh d => cases d <;> rfl
  | _ => rfl

/-- Settles O4: each of the words is the one the encoder writes for its operation; the cursor 10 is the first that is
none. -/
theorem sampleWordsDecode : Obligations.SampleWordsDecode := by
  exact ⟨decodeOfEncodeIsTheInstruction (.cycIterate true false true false 586#32),
    decodeOfEncodeIsTheInstruction (.cycReset 0#37), decodeOfEncodeIsTheInstruction .iterCalculating,
    decodeOfEncodeIsTheInstruction .qdStepPlus, decodeOfEncodeIsTheInstruction .editOffsWhole, rfl,
    decodeOfEncodeIsTheInstruction .genSquare⟩

/-! ### Encoding what was decoded -/

/-- An input bundle is the encoding of its cycle: below its leading control bit it is put together bit by bit (R80). -/
theorem encode_decodeIn38 {w : Word} (hlt : w.toNat < 2 ^ 38) : encode (decodeIn38 w) = ⟨.in38, w⟩ := by
  have hw := setWidth_extractLsb'_of_lt hlt
  rw [← bitAt_or_extractLsb'] at hw
  cases h37 : w.getLsbD 37 with
  | true => rw [decodeIn38_reset h37, encode, ← h37, hw]
  | false =>
    rw [h37, bitAt_false, BitVec.zero_or, ← bitAt_or_extractLsb'] at hw
    cases h36 : w.getLsbD 36 with
    | true =>
      rw [decodeIn38_iterate h37 h36, encode, ← h36]
      simp only [BitVec.or_assoc, bitAt_or_extractLsb', hw]
    | false =>
      rw [h36, bitAt_false, BitVec.zero_or, ← bitAt_or_extractLsb'] at hw
      cases h35 : w.getLsbD 35 with
      | true =>
        rw [decodeIn38_modePress h37 h36 h35, encode, ← h35, BitVec.or_assoc, bitAt_or_extractLsb', hw]
      | false =>
        rw [h35, bitAt_false, BitVec.zero_or, ← bitAt_or_extractLsb'] at hw
        cases h34 : w.getLsbD 34 with
        | true => rw [decodeIn38_fieldPress h37 h36 h35 h34, encode, ← h34, hw]
        | false =>
          rw [h34, bitAt_false, BitVec.zero_or] at hw
          rw [decodeIn38_idle h37 h36 h35 h34, encode, hw]

theorem encode_decodeMode2 {w : Word} (h : w.toNat < 2 ^ 2) : encode (decodeMode2 w) = ⟨.mode2, w⟩ :=
  forall_word_lt (P := fun w => encode (decodeMode2 w) = ⟨.mode2, w⟩) 2 (by decide) w h

theorem encode_decodeQdin3 {w : Word} (h : w.toNat < 2 ^ 3) : encode (decodeQdin3 w) = ⟨.qdin3, w⟩ :=
  forall_word_lt (P := fun w => encode (decodeQdin3 w) = ⟨.qdin3, w⟩) 3 (by decide) w h

theorem encode_decodeKind2 {w : Word} (h : w.toNat < 2 ^ 2) : encode (decodeKind2 w) = ⟨.kind2, w⟩ :=
  forall_word_lt (P := fun w => encode (decodeKind2 w) = ⟨.kind2, w⟩) 2 (by decide) w h

theorem encode_of_decodeCursor4 {w : Word} {i : Instr} (h : decodeCursor4 w = .ok i) : encode i = ⟨.cursor4, w⟩ := by
  unfold decodeCursor4 at h
  split at h
  all_goals cases h
  all_goals next hk => exact congrArg (Selector.mk .cursor4) (BitVec.eq_of_toNat_eq hk.symm)

theorem encode_decodeSub {w : Word} (op : SubOp) (h : w.toNat < 2 ^ 0) : encode (decodeSub op) = ⟨.sub op, w⟩ := by
  obtain rfl : w = 0#40 := BitVec.eq_of_toNat_eq (Nat.lt_one_iff.mp h)
  cases op <;> rfl

/-- What the decoder accepts fits its format (R80). -/
theorem fits_of_decode_ok {sel : Selector} {i : Instr} (h : decode sel = .ok i) :
    sel.word.toNat < 2 ^ sel.fmt.width := by
  by_contra hc
  rw [decode, if_neg hc] at h
  cases h

/-- Settles O2: in each format but CTL4 a word that fits is the encoding of what its decoder reads. -/
theorem encodeOfDecodeIsTheWord : Obligations.EncodeOfDecodeIsTheWord := by
  rintro ⟨fmt, w⟩ i hne h
  have hfit := fits_of_decode_ok h
  rw [decode, if_pos hfit] at h
  cases fmt with
  | ctl4 => exact absurd rfl hne
  | in38 => exact Except.ok.inj h ▸ encode_decodeIn38 hfit
  | mode2 => exact Except.ok.inj h ▸ encode_decodeMode2 hfit
  | qdin3 => exact Except.ok.inj h ▸ encode_decodeQdin3 hfit
  | cursor4 => exact encode_of_decodeCursor4 h
  | kind2 => exact Except.ok.inj h ▸ encode_decodeKind2 hfit
  | sub op => exact Except.ok.inj h ▸ encode_decodeSub op hfit

/-! ### The control bits -/

theorem decode_ctl4 {w : Word} (h : w.toNat < 16) : decode ⟨.ctl4, w⟩ = .ok (decodeIn38 (w <<< 34)) := by
  unfold decode; exact if_pos h

theorem decode_ctl4_above {w : Word} (h : 16 ≤ w.toNat) : decode ⟨.ctl4, w⟩ = .error .bitsAboveWidth := by
  unfold decode; exact if_neg (Nat.not_lt.mpr h)

/-- A control word is the top of a bundle (R80). -/
theorem shiftLeft_lt_of_ctl4 {w : Word} (h : w.toNat < 16) : (w <<< 34).toNat < 2 ^ 38 := by
  rw [BitVec.toNat_shiftLeft, Nat.shiftLeft_eq]; omega

/-- Settles O3: the decoder tests the control bits from the top (R84). -/
theorem controlBitsSelectTheCycle : Obligations.ControlBitsSelectTheCycle := by
  intro w
  refine ⟨decode_in38_above, fun hlt => ?_, fun h => ?_, decode_ctl4_above⟩
  · rw [show decodeProgramWord w = .ok (decodeIn38 w) from decode_in38 hlt]
    exact ⟨fun h37 => ⟨_, congrArg _ (decodeIn38_reset h37)⟩,
      fun h37 h36 => congrArg _ (decodeIn38_iterate h37 h36),
      fun h37 h36 h35 => ⟨_, congrArg _ (decodeIn38_modePress h37 h36 h35)⟩,
      fun h37 h36 h35 h34 => ⟨_, congrArg _ (decodeIn38_fieldPress h37 h36 h35 h34)⟩,
      fun h37 h36 h35 h34 => ⟨_, congrArg _ (decodeIn38_idle h37 h36 h35 h34)⟩⟩
  · rw [decode_ctl4 h, decode_in38 (shiftLeft_lt_of_ctl4 h)]

/-! ### The stimulus lines -/

/-- A well-formed line whose items set the bits of a cycle's bundle assembles to it, in any order of the items (R87). -/
theorem assemble_items {l l' : List Item} {i : Instr} (hl : l.Perm l') (hwf : (Line.items l').wf = true)
    (hfmt : (encode i).fmt = .in38) (hbits : (l'.map Item.bits).foldl (· ||| ·) 0#40 = (encode i).word) :
    ∃ w, Line.assemble (.items l) = some w ∧ decodeProgramWord w = .ok i := by
  refine ⟨(encode i).word, ?_, ?_⟩
  · rw [assemble_perm hl, Line.assemble, if_pos hwf, hbits]
  · rw [decodeProgramWord, ← encode_eq_in38 hfmt, decodeOfEncodeIsTheInstruction]

/-- Settles O5: each line sets the bits of its cycle with 0 in the inputs that are not read, and O1 decodes that word. -/
theorem stimulusLineAssembles : Obligations.StimulusLineAssembles := by
  refine ⟨⟨_, rfl, decodeOfEncodeIsTheInstruction (.cycReset 0#37)⟩,
    ⟨_, rfl, decodeOfEncodeIsTheInstruction (.cycIdle 0#34)⟩,
    fun m f c d now l hl => assemble_items hl ?_ rfl ?_, fun f l hl => assemble_items hl ?_ rfl ?_,
    assemble_items (.refl _) (by decide) rfl (by decide)⟩
  · cases m <;> cases f <;> rfl
  · cases m <;> cases f <;> simp [Item.bits, encode] <;> ac_rfl
  · cases f <;> rfl
  · cases f <;> rfl

/-! ### The operations that the selectors name -/

/-- (QD_PREV, ENC_CLK, ENC_DATA) selects the operation that the decoder runs (R83, R100). -/
theorem runDecoder_selected (c d : Bool) (s : State) :
    ∃ i, decode ⟨.qdin3, BitVec.ofNat 40 (4 * s.qdPrev.toNat + 2 * c.toNat + d.toNat)⟩ = .ok i ∧
      runDecoder c d s = exec i s := by
  unfold runDecoder
  cases s.qdPrev <;> cases c <;> cases d <;> exact ⟨_, rfl, rfl⟩

/-- MODE selects the mode operation (R83, R177). -/
theorem runMode_selected (s : State) :
    ∃ i, decode ⟨.mode2, BitVec.ofNat 40 s.mode.toNat⟩ = .ok i ∧ runMode s = exec i s := by
  unfold runMode
  rcases mode_cases s.mode with h | h | h | h <;> rw [h] <;> exact ⟨_, rfl, rfl⟩

/-- KIND selects the generator (R83, R135). -/
theorem runGenerator_selected (s : State) :
    ∃ i, decode ⟨.kind2, BitVec.ofNat 40 s.kind.toNat⟩ = .ok i ∧ runGenerator s = exec i s := by
  unfold runGenerator
  rcases mode_cases s.kind with h | h | h | h <;> rw [h] <;> exact ⟨_, rfl, rfl⟩

/-- A legal cursor selects the edit operation, which writes what Edit returns (R83, R111). -/
theorem edit_selected {c : BitVec 4} (hc : c ≤ 9#4) :
    ∃ i, decode ⟨.cursor4, BitVec.ofNat 40 c.toNat⟩ = .ok i ∧
      ∀ s, exec i s = orFault (edit (paramsOf s) c s.qdStep) fun p => writeParams p s := by
  have hcases : ∀ c : BitVec 4, c ≤ 9#4 → c ∈ [0#4, 1#4, 2#4, 3#4, 4#4, 5#4, 6#4, 7#4, 8#4, 9#4] := by decide
  have hmem := hcases c hc
  simp only [List.mem_cons, List.not_mem_nil, or_false] at hmem
  obtain rfl | rfl | rfl | rfl | rfl | rfl | rfl | rfl | rfl | rfl := hmem <;> exact ⟨_, rfl, fun _ => rfl⟩

/-! ### The cursor and the edit -/

theorem edit_illegalCursor (p : Params) {c : BitVec 4} (st : Step) (hc : 9#4 < c) :
    edit p c st = .error .illegalCursor := by
  have hcases : ∀ c : BitVec 4, 9#4 < c → c ∈ [10#4, 11#4, 12#4, 13#4, 14#4, 15#4] := by decide
  have hmem := hcases c hc
  simp only [List.mem_cons, List.not_mem_nil, or_false] at hmem
  obtain rfl | rfl | rfl | rfl | rfl | rfl := hmem <;> rfl

/-- An edited sample count still fits its register. -/
theorem edit_sc_lt {p q : Params} {c : BitVec 4} {st : Step} (h : edit p c st = .ok q) (hp : p.sc < 256) :
    q.sc < 256 := by
  unfold edit at h
  split at h
  case h_10 =>
    unfold editScField at h
    split at h
    · cases h
      cases st
      · exact (max_lt (by omega) (by omega) : max (p.sc / 2) 16 < 256)
      · exact hp
      · exact (min_lt_of_right_lt (by omega) : min (2 * p.sc) 128 < 256)
    · cases h
  all_goals cases h
  all_goals exact hp

/-- Settles O23: the selected operation is the checked write of what Edit returns. -/
theorem cursorSelectsTheEdit : Obligations.CursorSelectsTheEdit := by
  intro s c
  constructor
  · intro hc
    obtain ⟨i, hi, hx⟩ := edit_selected hc
    refine ⟨i, hi, fun p hp h1 h2 h3 => ⟨withParams p s, ?_, ?_⟩⟩
    · rw [hx, hp, orFault_ok, writeParams_of_fits h1 h2 h3]
    · exact paramsOf_withParams s h1 h2 h3 (edit_sc_lt hp s.sc.isLt)
  · intro hc
    refine ⟨?_, edit_illegalCursor _ _ hc⟩
    revert c
    decide

/-! ### An iterating cycle -/

/-- A merge without a register write, as R173 writes it. -/
theorem merge_none_eq {n : Nat} (hn : 0 < n) (c : BitVec n) (ev : Bool) :
    merge c none ev = BitVec.ofNat n ((c.toNat + ev.toNat) % 2 ^ n) := by
  apply BitVec.eq_of_toNat_eq
  rw [merge_toNat hn, BitVec.toNat_ofNat, Nat.mod_mod, Option.getD_none]

/-- The flags and the presses of R176, field by field. -/
theorem applyPresses_iterationFlags (m f : Bool) (s s2 : State) :
    applyPresses m f (iterationFlags s s2) =
      { s2 with started := true, cfgPrev := decide (s.mode = 1#2), dispFull := !s.started || s2.dispFull
                mode := BitVec.ofNat 2 ((s2.mode.toNat + m.toNat) % 4)
                fieldCnt := BitVec.ofNat 4 ((s2.fieldCnt.toNat + f.toNat) % 16) } := by
  rw [applyPresses, merge_none_eq (by decide), merge_none_eq (by decide)]
  rfl

/-- Settles O10: the cycle runs the decoder and the mode operation by the codes that the selector words hold. -/
theorem iterationRunsTheSelectedOperations : Obligations.IterationRunsTheSelectedOperations := by
  intro s m f c d now
  obtain ⟨iq, hq, hxq⟩ := runDecoder_selected c d { clearStrobes s with nowUs := now }
  obtain ⟨im, hm, hxm⟩ := runMode_selected (sampled c d now s)
  have hcyc : ∀ r, exec im (sampled c d now s) = r → exec (.cycIterate m f c d now) s =
      andThen r fun s2 => .next (applyPresses m f (iterationFlags s s2)) := fun r hr => by
    rw [← hr, ← hxm]; exact execCycIterate_eq m f c d now s
  refine ⟨iq, im, sampled c d now s, hq, hm, hxq.symm.trans (runDecoder_eq c d _), fun s2 h => ?_, fun r h => ?_,
    fun r h => ?_⟩
  · rw [hcyc _ h, andThen_next, applyPresses_iterationFlags]
  · rw [hcyc _ h, andThen_fault]
  · exact runMode_not_refused _ r (hxm.trans h)

/-! ### The pseudo-instructions -/

/-- A mode operation leaves the decoder's outputs (R101). -/
theorem runMode_keeps_decoder {s s2 : State} (h : runMode s = .next s2) :
    s2.qdStep = s.qdStep ∧ s2.qdPrev = s.qdPrev := by
  obtain ⟨_, _, rfl⟩ | ⟨_, p, q, _, _, rfl⟩ | ⟨_, q, _, rfl⟩ | ⟨_, rfl⟩ := runMode_inv h
  · split <;> exact ⟨rfl, rfl⟩
  · rw [configDisplay_qdStep, configDisplay_qdPrev]; exact ⟨rfl, rfl⟩
  · exact ⟨rfl, rfl⟩
  · exact ⟨rfl, rfl⟩

/-- A cycle on the first of some lines, one of a single ITER item, steps the decoder on the item's levels, in any mode, and
leaves the bundles of the other lines (R87, R101). -/
theorem step_iterLine {s t : State} {lines : List Line} {ws rest : List Word} {c d : Bool} {now : BitVec 32}
    (hs : s.stimulus = ws ++ rest)
    (hws : (Line.items [.iter c d now] :: lines).map Line.assemble = ws.map some) (h : step s = .next t) :
    t.qdStep = stepOf s.qdPrev c d ∧ t.qdPrev = c ∧
      ∃ ws', t.stimulus = ws' ++ rest ∧ lines.map Line.assemble = ws'.map some := by
  obtain ⟨w, ws', rfl, hw, hws'⟩ := List.map_eq_cons_iff.mp hws.symm
  obtain ⟨w', hw', hd⟩ := assemble_items (l := [.iter c d now]) (i := .cycIterate false false c d now) (.refl _) rfl rfl
    (by simp [Item.bits, encode])
  obtain rfl : w = w' := Option.some.inj (hw.trans hw')
  rw [step_eq_exec hs hd] at h
  have hrest := exec_cycle_stimulus hd h
  obtain ⟨s2, hrun, rfl⟩ := exec_cycIterate_inv h
  obtain ⟨hstep, hprev⟩ := runMode_keeps_decoder hrun
  exact ⟨hstep, hprev, ws', hrest, hws'.symm⟩

theorem stepOf_clkHigh (p d : Bool) : stepOf p true d = .zero := by simp [stepOf]

/-- A turn is a cycle with the clock high, which gives no step, then the falling edge, whose data level is the direction
(R88, R102, R103). -/
theorem turn_steps {s t u : State} {ws rest : List Word} {d : Bool} {now : BitVec 32} (hs : s.stimulus = ws ++ rest)
    (hws : [Line.items [.iter true d now], .items [.iter false d now]].map Line.assemble = ws.map some)
    (ht : step s = .next t) (hu : step t = .next u) :
    t.qdStep = .zero ∧ u.qdStep = (if d then .plus else .minus) ∧ u.stimulus = rest := by
  obtain ⟨hstep, hprev, ws1, hs1, hws1⟩ := step_iterLine hs hws ht
  obtain ⟨hstep', _, ws2, hs2, hws2⟩ := step_iterLine hs1 hws1 hu
  obtain rfl := List.map_eq_nil_iff.mp hws2.symm
  rw [hprev] at hstep'
  exact ⟨hstep.trans (stepOf_clkHigh _ _), hstep', hs2⟩

/-- Settles O17: the expansions of R88 are cycles on lines of one ITER item, whose words the premises give. -/
theorem pseudoInstructionSteps : Obligations.PseudoInstructionSteps := by
  intro s t u now ws rest hs
  refine ⟨turn_steps hs, turn_steps hs, fun hws ht => ?_⟩
  obtain ⟨hstep, hprev, ws1, hs1, hws1⟩ := step_iterLine hs hws ht
  obtain rfl := List.map_eq_nil_iff.mp hws1.symm
  exact ⟨hstep.trans (stepOf_clkHigh _ _), hprev, hs1⟩

/-! ### The mode operations in their order -/

/-- The state with the cursor c, in FIELD_CNT too (R181). -/
def withCursor (c : BitVec 4) (s : State) : State := { s with editCursor := c, fieldCnt := c }

/-- DC_REDIRECT on a legal cursor that FIELD_CNT holds too leaves both redirected (R123, R181). -/
theorem execDcRedirect_withCursor {c : BitVec 4} (hc : ¬ 10#4 ≤ c) (s : State) :
    execDcRedirect (withCursor c s) = .next (withCursor (redirect s.kind c) s) := by
  have hcnt : (if redirect s.kind c = c then c else redirect s.kind c) = redirect s.kind c :=
    ite_eq_right_iff.mpr Eq.symm
  exact (if_neg hc).trans
    (congrArg (fun v => (.next { s with editCursor := redirect s.kind c, fieldCnt := v } : Result)) hcnt)

/-- From parameters in their valid range the selected edit and then SATURATE answer, and leave the saturated parameters of
the edited ones (R129). -/
theorem edit_then_saturate {s : State} (hr : ParamsInRange s) {c : BitVec 4} (hc : c ≤ 9#4) :
    ∃ i p q, decode ⟨.cursor4, BitVec.ofNat 40 c.toNat⟩ = .ok i ∧ edit (paramsOf s) c s.qdStep = .ok p ∧
      sat s.build p = .ok q ∧ exec i s = .next (withParams p s) ∧
      exec .saturate (withParams p s) = .next (withParams q s) := by
  have ⟨hsc, _⟩ := hr
  obtain ⟨i, hi, hx⟩ := edit_selected hc
  obtain ⟨p, hp, hl⟩ := edit_ok (paramsOf s) s.qdStep hc hsc
  obtain ⟨hfreq, hamp, hoffs, hlt, _⟩ := edit_fits hr s.qdStep hp
  obtain ⟨q, hq, _⟩ := (sat_spec s.build p).2 (by rwa [max_eq_left (legalSc_le hl).1])
  refine ⟨i, p, q, hi, hp, hq, ?_, execSaturate_next_iff.mpr ⟨q, ?_, rfl⟩⟩
  · rw [hx, hp, orFault_ok, writeParams_of_fits hfreq hamp hoffs]
  · rwa [paramsOf_withParams s hfreq hamp hoffs hlt]

/-- Settles O30: DC_REDIRECT leaves the derived cursor, and the edit and SATURATE leave the parameters that the iteration
writes at once. -/
theorem configuringIsItsOperationsInOrder : Obligations.ConfiguringIsItsOperationsInOrder := by
  intro s hr
  have hreduced : ∀ fc : BitVec 4, ¬ 10#4 ≤ fc % 10#4 := by decide
  have hc := deriveCursor_le s.fieldCnt s.kind
  have hcur : ParamsInRange (withCursor (deriveCursor s.fieldCnt s.kind).1 s) := hr
  obtain ⟨i, p, q, hi, hp, hq, hedit, hsat⟩ := edit_then_saturate hcur hc
  have hconf := execIterConfiguring_next_iff.mpr ⟨p, q, hp, hq, rfl⟩
  have hred := execDcRedirect_withCursor (hreduced s.fieldCnt) s
  rw [← deriveCursor_fst] at hred
  exact ⟨_, _, _, i, hred, hi, hedit, hsat, hconf⟩

/-- Settles O34: the iteration answers on such a count, so each of its operations does. -/
theorem calculatingIsItsOperationsInOrder : Obligations.CalculatingIsItsOperationsInOrder := by
  intro s hl
  obtain ⟨t, ht⟩ := execIterCalculating_ok hl
  obtain ⟨s1, h1, h⟩ := andThen_next_iff.mp ht
  obtain ⟨s2, h2, h⟩ := andThen_next_iff.mp h
  obtain ⟨s3, h3, h⟩ := andThen_next_iff.mp h
  obtain ⟨ig, hig, hx⟩ := runGenerator_selected s1
  exact ⟨s1, s2, s3, ig, h1, hig, hx.symm.trans h2, h3, ht.trans h.symm⟩

end Sys2Proof.Proofs
end

section
/-! PROOFS. The quadrature decoder of 40_quadrature_decoder.md: what its operations write (R102 to R104), its truth table
(R105), and what it and the flags leave after an iterating cycle (R101, R176). -/

namespace Sys2Proof.Proofs

open Sys2Proof Sys2Proof.Machine

/-! ### The decoder operations -/

theorem exec_qdStepPlus (s : State) : exec .qdStepPlus s = .next (qdResult .plus false s) := rfl

theorem exec_qdStepMinus (s : State) : exec .qdStepMinus s = .next (qdResult .minus false s) := rfl

theorem exec_qdNoEdgePrevLow (c d : Bool) (s : State) :
    exec (.qdNoEdgePrevLow c d) s = .next (qdResult .zero c s) := rfl

theorem exec_qdNoEdgeClkHigh (d : Bool) (s : State) :
    exec (.qdNoEdgeClkHigh d) s = .next (qdResult .zero true s) := rfl

/-- Settles O15: `qdResult` updates QD_STEP and QD_PREV and keeps every other field. -/
theorem decoderOperationsWrite : Obligations.DecoderOperationsWrite := fun s c d =>
  ⟨exec_qdStepPlus s, exec_qdStepMinus s, exec_qdNoEdgePrevLow c d s, exec_qdNoEdgeClkHigh d s⟩

/-- An operation that writes the decoder's outputs shows the code of the step on its port (R76) and keeps every other
field. -/
theorem decoderOutputs_of_exec {i : Instr} {s : State} {st : Step} {prev : Bool}
    (h : exec i s = .next (qdResult st prev s)) :
    ∃ t, exec i s = .next t ∧ t.qdStep = st ∧ (portsOf t).qdStep = st.code ∧ t.qdPrev = prev ∧
      t = { s with qdStep := t.qdStep, qdPrev := t.qdPrev } :=
  ⟨_, h, rfl, rfl, rfl, rfl⟩

/-- Settles O16: in each row the decoder reads the operation from the pattern, and the operation writes the row's step and
QD_PREV. -/
theorem decoderTruthTable : Obligations.DecoderTruthTable := by
  intro s p i st port prev hrow
  simp only [List.mem_cons, Prod.mk.injEq, List.not_mem_nil, or_false] at hrow
  obtain ⟨rfl, rfl, rfl, rfl, rfl⟩ | ⟨rfl, rfl, rfl, rfl, rfl⟩ | ⟨rfl, rfl, rfl, rfl, rfl⟩ | ⟨rfl, rfl, rfl, rfl, rfl⟩ |
    ⟨rfl, rfl, rfl, rfl, rfl⟩ | ⟨rfl, rfl, rfl, rfl, rfl⟩ | ⟨rfl, rfl, rfl, rfl, rfl⟩ | ⟨rfl, rfl, rfl, rfl, rfl⟩ := hrow
  · exact ⟨rfl, decoderOutputs_of_exec (exec_qdNoEdgePrevLow false false s)⟩
  · exact ⟨rfl, decoderOutputs_of_exec (exec_qdNoEdgePrevLow false true s)⟩
  · exact ⟨rfl, decoderOutputs_of_exec (exec_qdNoEdgePrevLow true false s)⟩
  · exact ⟨rfl, decoderOutputs_of_exec (exec_qdNoEdgePrevLow true true s)⟩
  · exact ⟨rfl, decoderOutputs_of_exec (exec_qdStepMinus s)⟩
  · exact ⟨rfl, decoderOutputs_of_exec (exec_qdStepPlus s)⟩
  · exact ⟨rfl, decoderOutputs_of_exec (exec_qdNoEdgeClkHigh false s)⟩
  · exact ⟨rfl, decoderOutputs_of_exec (exec_qdNoEdgeClkHigh true s)⟩

/-! ### The writes of every iteration -/

/-- A mode operation leaves the time that the cycle sampled (R40). -/
theorem runMode_nowUs {s s2 : State} (h : runMode s = .next s2) : s2.nowUs = s.nowUs := by
  obtain ⟨_, _, rfl⟩ | ⟨_, p, q, _, _, rfl⟩ | ⟨_, q, _, rfl⟩ | ⟨_, rfl⟩ := runMode_inv h
  · split <;> rfl
  · rw [configDisplay_nowUs]; rfl
  · rfl
  · rfl

/-- Settles O11: the mode operation leaves what the decoder and the sampling wrote, and the flags come from the state at
the start of the cycle. -/
theorem everyIterationWrites : Obligations.EveryIterationWrites := by
  intro s t m f c d now h
  obtain ⟨s2, hrun, rfl⟩ := exec_cycIterate_inv h
  obtain ⟨hstep, hprev⟩ := runMode_keeps_decoder hrun
  exact ⟨hprev, rfl, decide_eq_true_iff, hstep, (runMode_nowUs hrun :), (runMode_build hrun :),
    (runMode_stimulus hrun :)⟩

end Sys2Proof.Proofs
end

section
/-! PROOFS. The field editor of 41_field_editor.md: the edits of the kind and of the sample count (R112, R121, R122), the
redirect of the cursor (R123), the maximum frequencies (R125), the saturation pass on parameters in their valid range
(R128), and the cycles that leave such parameters as they are (R111, R132). -/

namespace Sys2Proof.Proofs

open Sys2Proof Sys2Proof.Machine

/-! ### The edit of the kind -/

/-- The kind is a write without a check: its register holds every value of its type. -/
theorem writeParams_kind (s : State) (k : BitVec 2) :
    writeParams { paramsOf s with kind := k } s = .next { s with kind := k } := by
  simp [writeParams, paramsOf, fitsSigned_toInt16, fitsSigned_toInt32]

theorem exec_editKind (s : State) :
    exec .editKind s = .next { s with kind := s.kind + BitVec.ofInt 2 s.qdStep.toInt } :=
  writeParams_kind s _

/-- Adding an integer to a kind code is addition modulo 4 (R112). -/
theorem kind_add_ofInt (k : BitVec 2) (x : Int) :
    ((k + BitVec.ofInt 2 x).toNat : Int) = ((k.toNat : Int) + x) % 4 := by
  rw [BitVec.toNat_add, BitVec.toNat_ofInt]
  omega

/-- Settles O18: the edit writes the sum of the kind and the step, which the 2-bit register holds modulo 4. -/
theorem kindEditWraps : Obligations.KindEditWraps := fun s =>
  ⟨_, exec_editKind s, kind_add_ofInt s.kind s.qdStep.toInt, rfl⟩

/-! ### The edit of the sample count -/

theorem legalSc_iff_mem {n : Nat} : legalSc n = true ↔ n ∈ [16, 32, 64, 128] := by
  simp [legalSc, or_assoc]

theorem writeParams_sc (s : State) (n : Nat) :
    writeParams { paramsOf s with sc := n } s = .next { s with sc := BitVec.ofNat 8 n } := by
  simp [writeParams, paramsOf, fitsSigned_toInt16, fitsSigned_toInt32]

theorem exec_editSc_of_legal {s : State} (h : legalSc s.sc.toNat = true) :
    exec .editSc s = .next { s with sc := BitVec.ofNat 8 (scStep s.sc.toNat s.qdStep) } := by
  have hedit : editScField (paramsOf s) s.qdStep = .ok { paramsOf s with sc := scStep s.sc.toNat s.qdStep } := if_pos h
  change orFault (editScField (paramsOf s) s.qdStep) _ = _
  rw [hedit, orFault_ok, writeParams_sc]

theorem exec_editSc_of_illegal {s : State} (h : legalSc s.sc.toNat ≠ true) :
    exec .editSc s = .fault .illegalSampleCount := by
  have hedit : editScField (paramsOf s) s.qdStep = .error .illegalSampleCount := if_neg h
  change orFault (editScField (paramsOf s) s.qdStep) _ = _
  rw [hedit, orFault_error]

/-- The rows of R122: SCStep of R121 on each legal count, as its register holds it. -/
theorem scStep_table {n up down : Nat}
    (h : (n, up, down) ∈ [(16, 32, 16), (32, 64, 16), (64, 128, 32), (128, 128, 64)]) (st : Step) :
    (BitVec.ofNat 8 (scStep n st)).toNat = (match st with | .plus => up | .minus => down | .zero => n) := by
  simp only [List.mem_cons, Prod.mk.injEq, List.not_mem_nil, or_false] at h
  obtain ⟨rfl, rfl, rfl⟩ | ⟨rfl, rfl, rfl⟩ | ⟨rfl, rfl, rfl⟩ | ⟨rfl, rfl, rfl⟩ := h <;> cases st <;> rfl

/-- Settles O22: a count in the table is legal, so the edit writes SCStep of it; a count outside is the fault. -/
theorem sampleCountEdit : Obligations.SampleCountEdit := by
  refine fun s => ⟨fun n up down hrow hn => ?_, fun hmem => exec_editSc_of_illegal (mt legalSc_iff_mem.mp hmem)⟩
  have hlegal : legalSc s.sc.toNat = true := by
    rw [hn, legalSc_iff_mem]
    exact List.mem_map_of_mem (f := Prod.fst) hrow
  refine ⟨_, exec_editSc_of_legal hlegal, rfl, ?_⟩
  rw [hn]
  exact scStep_table hrow s.qdStep

/-! ### The maximum frequencies -/

/-- fmax of k blocks of 16 samples is the global maximum divided by k (R125). -/
theorem fmax_mul (b : Config.ValidBuild) (k : Nat) : fmax b (16 * k) = (b.val.gmaxHz / k : Nat) := by
  have hblocks : fdiv ((16 * k : Nat) : Int) 16 = k := by
    unfold fdiv; omega
  rw [fmax, hblocks, fdiv, Int.natCast_ediv]

/-- Settles O24: the four counts are 1, 2, 4 and 8 blocks of 16 samples. -/
theorem maximumFrequencies : Obligations.MaximumFrequencies := by
  refine ⟨fun b => ⟨?_, fmax_mul b 2, fmax_mul b 4, fmax_mul b 8, (fmax_range b rfl).1⟩,
    fmax_mul Config.tcfg 1, fmax_mul Config.tcfg 2, fmax_mul Config.tcfg 4, fmax_mul Config.tcfg 8⟩
  exact (fmax_mul b 1).trans (by rw [Nat.div_one])

/-! ### The redirect of the cursor -/

theorem redirect_of_not {kind : BitVec 2} {c : BitVec 4} (h : ¬(kind = 3#2 ∧ c = 1#4)) : redirect kind c = c := if_neg h

theorem redirect_dc {kind : BitVec 2} {c : BitVec 4} (hkind : kind = 3#2) (hc : c = 1#4) : redirect kind c = 6#4 :=
  if_pos ⟨hkind, hc⟩

/-- On a legal cursor DC_REDIRECT writes the redirected cursor, and writes it back where it moved (R123, R181). -/
theorem exec_dcRedirect_of_legal {s : State} (h : s.editCursor ≤ 9#4) :
    exec .dcRedirect s = .next { s with
      editCursor := redirect s.kind s.editCursor
      fieldCnt := if redirect s.kind s.editCursor = s.editCursor then s.fieldCnt else redirect s.kind s.editCursor } :=
  if_neg (by bv_omega)

theorem exec_dcRedirect_of_illegal {s : State} (h : 9#4 < s.editCursor) :
    exec .dcRedirect s = .fault .illegalCursor :=
  if_pos (by bv_omega)

/-- Settles O27: a legal cursor either stays, and nothing is written back, or is the 1 that DC moves to 6. -/
theorem dcRedirectsFieldOne : Obligations.DcRedirectsFieldOne := by
  refine fun s => ⟨fun hle hstay => ?_, fun hkind hc => ?_, exec_dcRedirect_of_illegal⟩
  · rw [exec_dcRedirect_of_legal hle, redirect_of_not hstay, if_pos rfl]
  · rw [exec_dcRedirect_of_legal (by rw [hc]; decide), redirect_dc hkind hc, hc, if_neg (by decide)]

/-! ### Parameters in their valid range -/

/-- The saturation pass returns parameters in their valid range as they are: each of its clamps is the identity (R128). -/
theorem sat_of_inRange {s : State} (h : ParamsInRange s) : sat s.build (paramsOf s) = .ok (paramsOf s) := by
  obtain ⟨hsc, hf1, hf, ha0, ha, ho0, ho⟩ := h
  have hmax : max (paramsOf s).sc 16 = s.sc.toNat := max_eq_left (legalSc_le hsc).1
  obtain ⟨_, hgood⟩ := sat_spec s.build (paramsOf s)
  obtain ⟨⟨kind, freq, amp, offs, sc⟩, hq, hkind, hcount, hfreq, hamp, hoffs, _⟩ := hgood (by rwa [hmax])
  obtain rfl : sc = s.sc.toNat := hcount.trans hmax
  rw [hq, Except.ok.injEq, paramsOf, Params.mk.injEq]
  exact ⟨hkind, hfreq.trans (clamp_id hf1 hf), hamp.trans (clamp_id ha0 ha), hoffs.trans (clamp_id ho0 ho), rfl⟩

theorem exec_saturate_of_inRange {s : State} (h : ParamsInRange s) : exec .saturate s = .next s :=
  execSaturate_next_iff.mpr ⟨paramsOf s, sat_of_inRange h, (withParams_paramsOf s).symm⟩

/-- Settles O26: one pass leaves parameters in their valid range (R127), and a pass on such parameters changes nothing. -/
theorem saturationIsIdempotent : Obligations.SaturationIsIdempotent := by
  refine ⟨fun s t h => exec_saturate_of_inRange ?_, fun s => exec_saturate_of_inRange⟩
  obtain ⟨q, hq, rfl⟩ := execSaturate_next_iff.mp h
  exact inRange_of_sat hq rfl

theorem paramsOf_configDisplay (s : State) : paramsOf (configDisplay s) = paramsOf s := by
  simp [paramsOf]

/-- Settles O31: without a step the edit returns its parameters, the saturation pass keeps them, and writing back what the
registers hold changes nothing. -/
theorem noStepNoEdit : Obligations.NoStepNoEdit := by
  intro s hr hstep
  have ⟨hsc, _⟩ := hr
  have hedit : edit (paramsOf s) (deriveCursor s.fieldCnt s.kind).1 s.qdStep = .ok (paramsOf s) := by
    rw [hstep]
    exact edit_zero _ (deriveCursor_le _ _) hsc
  refine ⟨_, execIterConfiguring_next_iff.mpr ⟨_, _, hedit, sat_of_inRange hr, rfl⟩, ?_⟩
  rw [paramsOf_configDisplay, withParams_paramsOf]
  rfl

/-- Outside Configuring a mode operation keeps parameters in their valid range: only the saturation pass of Calculating
writes them (R132). -/
theorem runMode_keeps_params {s s2 : State} (hr : ParamsInRange s) (h : runMode s = .next s2) (hm : s.mode ≠ 1#2) :
    paramsOf s2 = paramsOf s := by
  obtain ⟨_, _, rfl⟩ | ⟨hc, _⟩ | ⟨_, q, hq, rfl⟩ | ⟨_, rfl⟩ := runMode_inv h
  · split <;> rfl
  · exact absurd hc hm
  · have hsame : paramsOf s = q := Except.ok.inj ((sat_of_inRange hr).symm.trans hq)
    rw [paramsOf_calculated hq, hsame]
  · rfl

/-- Settles O32: the sampling, the flags and the presses of a cycle leave the parameters to its mode operation. -/
theorem onlyConfiguringEdits : Obligations.OnlyConfiguringEdits := by
  intro s t m f c d now hr hm h
  obtain ⟨s2, hrun, rfl⟩ := exec_cycIterate_inv h
  have hr' : ParamsInRange (sampled c d now s) := hr
  exact (runMode_keeps_params hr' hrun hm :)

end Sys2Proof.Proofs
end

section
/-! PROOFS. The waveform generator of 42_waveform_generator.md: the tables that its operations write (R135 to R141), that a
Calculating iteration's table is a function of the parameters (R142), the frequency-to-interval conversion (R144, R145), and
the shape of each wave (R148). -/

namespace Sys2Proof.Proofs

open Sys2Proof Sys2Proof.Machine

/-! ### The codes of the generators -/

/-- R137 with the constants as numbers. -/
theorem sineCode_eq (v a o : Int) (n i : Nat) :
    sineCode v a o n i = quant (4096 * (a * sinf i n + 2147483648 * o)) (2147483648 * v) := by
  norm_num [sineCode, codeRes]

theorem squareCode_high {n i : Nat} (v a o : Int) (h : i < n / 2) :
    squareCode v a o n i = quant (4096 * (a + o)) v := if_pos h

theorem squareCode_low {n i : Nat} (v a o : Int) (h : n / 2 ≤ i) :
    squareCode v a o n i = quant (4096 * o) v := if_neg (Nat.not_lt.mpr h)

/-! ### The tables of the generators -/

/-- An operation that fills the table with the codes f, on a canonical buffer: the codes below a legal SC, every other
entry and register as before, and the fault on an illegal SC (R63, R135, R205). -/
theorem generator_spec {ig : Instr} {s : State} {f : Nat → Code} (hx : exec ig s = fillBuf f s)
    (hwf : s.buf.wf = true) :
    (legalSc s.sc.toNat = true → ∃ t, exec ig s = .next t ∧ t = { s with buf := t.buf } ∧
      ∀ i, t.buf.read i = if i < s.sc.toNat then f i else s.buf.read i) ∧
    (legalSc s.sc.toNat = false → exec ig s = .fault .illegalSampleCount) := by
  obtain ⟨hbad, hgood⟩ := fillBuf_spec f hwf
  rw [hx]
  refine ⟨fun hl => ?_, hbad⟩
  obtain ⟨m, hfill, _, hread⟩ := hgood hl
  exact ⟨_, hfill, rfl, hread⟩

/-- Settles O39: GEN_SINE fills the table with `sineCode`. -/
theorem sineTable : Obligations.SineTable := by
  intro s hwf
  simp only [← sineCode_eq]
  exact generator_spec rfl hwf

/-- Settles O40: GEN_RAMP fills the table with `rampCode`. -/
theorem rampTable : Obligations.RampTable := fun _ hwf =>
  generator_spec rfl hwf

/-- Settles O41: GEN_SQUARE fills the table with `squareCode`, whose two halves are below SC. -/
theorem squareTable : Obligations.SquareTable := by
  intro s hwf
  obtain ⟨hgood, hbad⟩ := generator_spec (ig := .genSquare) rfl hwf
  refine ⟨fun hl => ?_, hbad⟩
  obtain ⟨t, ht, hframe, hread⟩ := hgood hl
  refine ⟨t, ht, hframe, fun i => ?_⟩
  rw [hread]
  by_cases hhalf : i < s.sc.toNat / 2
  · rw [if_pos (by omega : i < s.sc.toNat), if_pos hhalf, squareCode_high _ _ _ hhalf]
  · rw [if_neg hhalf, squareCode_low _ _ _ (Nat.not_lt.mp hhalf)]

/-- Settles O42: GEN_DC fills the table with the one code `dcCode`. -/
theorem dcTable : Obligations.DcTable := fun _ hwf =>
  generator_spec rfl hwf

/-! ### The generation as a function of the parameters -/

/-- The values that the saturation pass returns: the kind as it was, the rest clamped (R124). -/
theorem sat_ok_values {b : Config.ValidBuild} {p q : Params} (h : sat b p = .ok q) :
    q.kind = p.kind ∧ q.sc = max p.sc 16 ∧ q.amp = clamp p.amp 0 (vref b) ∧ q.offs = clamp p.offs 0 (vref b) := by
  obtain ⟨hbad, hgood⟩ := sat_spec b p
  cases hl : legalSc (max p.sc 16) with
  | false => exact nomatch (hbad hl).symm.trans h
  | true =>
    obtain ⟨q', hq', hkind, hsc, _, hamp, hoffs, _⟩ := hgood hl
    obtain rfl : q' = q := Except.ok.inj (hq'.symm.trans h)
    exact ⟨hkind, hsc, hamp, hoffs⟩

/-- What the saturation pass returns of the values that a table is made of depends on those same values and on the reference
voltage alone, not on the frequency or its maximum (R124, R142). -/
theorem sat_table_params {b b' : Config.ValidBuild} {p p' q q' : Params} (h : sat b p = .ok q) (h' : sat b' p' = .ok q')
    (hv : vref b = vref b') (hkind : p.kind = p'.kind) (hsc : p.sc = p'.sc) (hamp : p.amp = p'.amp)
    (hoffs : p.offs = p'.offs) : q.kind = q'.kind ∧ q.sc = q'.sc ∧ q.amp = q'.amp ∧ q.offs = q'.offs := by
  obtain ⟨hk, hs, ha, ho⟩ := sat_ok_values h
  obtain ⟨hk', hs', ha', ho'⟩ := sat_ok_values h'
  rw [hk, hs, ha, ho, hk', hs', ha', ho', hv, hkind, hsc, hamp, hoffs]
  exact ⟨rfl, rfl, rfl, rfl⟩

/-- Settles O35: both iterations write Gen of their saturated parameters, which are equal where Gen reads them. -/
theorem generationIsDeterministic : Obligations.GenerationIsDeterministic := by
  intro s s' t t' hwf hwf' hvref hkind hsc hamp hoffs h h'
  obtain ⟨q, hq, rfl⟩ := execIterCalculating_next_iff.mp h
  obtain ⟨q', hq', rfl⟩ := execIterCalculating_next_iff.mp h'
  have hv : vref s.build = vref s'.build := congrArg Nat.cast hvref
  obtain ⟨hqk, hqs, hqa, hqo⟩ := sat_table_params hq hq' hv hkind (congrArg BitVec.toNat hsc)
    (congrArg BitVec.toInt hamp) (congrArg BitVec.toInt hoffs)
  refine ⟨congrArg (BitVec.ofNat 8) hqs, fun i hi => ?_⟩
  rw [calculated_runSc hq] at hi
  rw [calculated_read hq hwf, calculated_read hq' hwf', ← hqs, if_pos hi, if_pos hi, hv, hqk, hqa, hqo]

/-! ### The shape of each wave -/

/-- A common positive factor of numerator and divisor does not change the stored code. -/
theorem quant_scale {k : Int} (hk : 0 < k) (n d : Int) : quant (k * n) (k * d) = quant n d := by
  rw [quant, rnd_scale k n d hk, quant]

/-- The sine at the four quarter points of a table, in the fixed point of R66, where 2^30 is 1. -/
theorem sinf_quarter_points {n : Nat} (hn : legalSc n = true) :
    sinf 0 n = 0 ∧ sinf (n / 4) n = 1073741824 ∧ sinf (n / 2) n = 0 ∧ sinf (3 * n / 4) n = -1073741824 := by
  have hphase : n / 4 * (128 / n) = 32 ∧ n / 2 * (128 / n) = 64 - 0 ∧ 3 * n / 4 * (128 / n) = 64 + 32 := by
    rcases legalSc_cases hn with rfl | rfl | rfl | rfl <;> decide
  obtain ⟨hquarter, hhalf, hlast⟩ := hphase
  exact ⟨sinf_first_quarter (Nat.zero_le _) (Nat.zero_mul _), sinf_first_quarter le_rfl hquarter,
    sinf_second_quarter (Nat.zero_le _) hhalf, sinf_third_quarter le_rfl hlast⟩

/-- Where the sine is the integer x, the code is that of half of x amplitudes above the offset. -/
theorem sineCode_of_sinf {n i : Nat} {x : Int} (v a o : Int) (h : sinf i n = 1073741824 * x) :
    sineCode v a o n i = quant (4096 * (a * x + 2 * o)) (2 * v) := by
  rw [sineCode_eq, h, ← quant_scale (k := 1073741824) (by decide) (4096 * (a * x + 2 * o))]
  congr 1 <;> ring

/-- Where the sine is 0 the code is the offset's. -/
theorem sineCode_of_sinf_zero {n i : Nat} (v a o : Int) (h : sinf i n = 0) :
    sineCode v a o n i = quant (4096 * o) v := by
  rw [sineCode_of_sinf (x := 0) v a o h, ← quant_scale (k := 2) (by decide) (4096 * o)]
  congr 1; ring

/-- Settles O44: the sine at the quarter points is 0, 1, 0 and -1. -/
theorem sineQuarterPoints : Obligations.SineQuarterPoints := by
  intro v a o n _ hn
  obtain ⟨hstart, hquarter, hhalf, hlast⟩ := sinf_quarter_points hn
  have hzero := sineCode_of_sinf_zero v a o hstart
  refine ⟨hzero, ?_, (sineCode_of_sinf_zero v a o hhalf).trans hzero.symm, ?_⟩
  · rw [sineCode_of_sinf (x := 1) v a o hquarter, mul_one]
  · rw [sineCode_of_sinf (x := -1) v a o hlast]
    congr 1; ring

theorem rampCode_zero {n : Nat} (hn : 0 < n) (v a o : Int) : rampCode v a o n 0 = quant (4096 * o) v := by
  rw [rampCode, codeRes, ← quant_scale (Int.natCast_pos.mpr hn) (4096 * o)]
  congr 1 <;> push_cast <;> ring

/-- The ramp's numerator grows with the sample, its divisor is fixed. -/
theorem rampCode_mono {v a : Int} {n i j : Nat} (hv : 0 < v) (ha : 0 ≤ a) (hn : 0 < n) (hij : i ≤ j) (o : Int) :
    (rampCode v a o n i).toNat ≤ (rampCode v a o n j).toNat := by
  have hrise : a * i ≤ a * j := mul_le_mul_of_nonneg_left (Int.ofNat_le.mpr hij) ha
  exact quant_mono (mul_pos hv (Int.natCast_pos.mpr hn)) (by unfold codeRes; omega)

/-- Settles O45: sample 0 adds nothing to the offset, and the codes rise with the sample. -/
theorem rampNeverFalls : Obligations.RampNeverFalls := by
  intro v a o n hv ha hn
  have hpos : 0 < n := lt_of_lt_of_le (by decide) (legalSc_le hn).1
  exact ⟨rampCode_zero hpos v a o, fun i j hij _ => rampCode_mono hv ha hpos hij o⟩

/-- Settles O46: the two halves are the codes of the offset with and without the amplitude, which is not negative. -/
theorem squareHighHalf : Obligations.SquareHighHalf := by
  intro v a o n i hv ha _ hi
  rw [squareCode_high v a o hi, squareCode_low v a o (Nat.le_add_left _ _)]
  exact quant_mono hv (by omega)

/-! ### The frequency-to-interval conversion -/

/-- The interval of a positive frequency fits its register, so the register holds the rounded value (R144): the timing
compensation is less than 1, and no interval is longer than the second it divides. -/
theorem intervalOf_toNat (b : Config.ValidBuild) {f : Int} {n : Nat} (hf : 1 ≤ f) (hn : 0 < n) :
    ((intervalOf b f n).toNat : Int) = rnd (usPerS * b.val.tcNum) (f * n * b.val.tcDen) := by
  obtain ⟨_, _, ⟨hnum, hlt, _⟩, _⟩ := build_ranges b
  have hfn : 1 ≤ f * n := one_le_mul_of_one_le_of_one_le hf (by omega)
  have hden : (b.val.tcDen : Int) ≤ f * n * b.val.tcDen := le_mul_of_one_le_left (by omega) hfn
  have hnonneg : 0 ≤ rnd (usPerS * b.val.tcNum) (f * n * b.val.tcDen) :=
    le_rnd (by omega) (by unfold usPerS; omega)
  have hle : rnd (usPerS * b.val.tcNum) (f * n * b.val.tcDen) ≤ 1000000 :=
    rnd_le (by omega) (by unfold usPerS; omega)
  rw [intervalOf, if_pos (by omega), BitVec.toNat_ofInt]
  omega

theorem exec_interval_of_legal {s : State} (h : legalSc s.sc.toNat = true) :
    exec .interval s = .next { s with interval := intervalOf s.build s.freq.toInt s.sc.toNat } := if_pos h

theorem exec_interval_of_illegal {s : State} (h : legalSc s.sc.toNat = false) :
    exec .interval s = .fault .illegalSampleCount := if_neg (ne_true_of_eq_false h)

/-- Settles O47: INTERVAL writes `intervalOf`, which for a positive frequency is the rounded value and within the bound of
R145. -/
theorem intervalConversion : Obligations.IntervalConversion := by
  refine fun s => ⟨fun hl => ⟨_, exec_interval_of_legal hl, rfl, fun hf => ?_⟩, exec_interval_of_illegal⟩
  have h16 := (legalSc_le hl).1
  exact ⟨intervalOf_toNat s.build hf (by omega), intervalOf_lt s.build hf h16⟩

end Sys2Proof.Proofs
end

section
/-! PROOFS. The sample scheduler of 43_sample_scheduler.md: what a poll does (R160), that a late emission is not caught up
(R162), and the table index of the next emission (R163). -/

namespace Sys2Proof.Proofs

open Sys2Proof Sys2Proof.Machine

/-! ### The poll -/

theorem exec_schedPoll_of_due {s : State} (hl : legalSc s.runSc.toNat = true)
    (hdue : s.interval.toNat ≤ (s.nowUs - s.lastT).toNat) : exec .schedPoll s = .next (emitSample s) :=
  execSchedPoll_next_iff.mpr ⟨hl, (if_pos hdue).symm⟩

theorem exec_schedPoll_of_early {s : State} (hl : legalSc s.runSc.toNat = true)
    (hearly : (s.nowUs - s.lastT).toNat < s.interval.toNat) : exec .schedPoll s = .next { s with dacWe := false } :=
  execSchedPoll_next_iff.mpr ⟨hl, (if_neg (Nat.not_le.mpr hearly)).symm⟩

theorem exec_schedPoll_of_illegal {s : State} (hl : legalSc s.runSc.toNat = false) :
    exec .schedPoll s = .fault .illegalSampleCount := if_neg (ne_true_of_eq_false hl)

/-- A poll that answers has a legal RUN_SC (R205). -/
theorem legalSc_of_exec_schedPoll {s t : State} (h : exec .schedPoll s = .next t) : legalSc s.runSc.toNat = true :=
  (execSchedPoll_next_iff.mp h).1

/-- The emission of R160, with the table index and the count of IDX as numbers. -/
theorem emitSample_eq {s : State} (hl : legalSc s.runSc.toNat = true) :
    emitSample s =
      { s with dacCode := s.buf.read (s.idx.toNat % s.runSc.toNat), dacWe := true
               idx := BitVec.ofNat 8 ((s.idx.toNat + 1) % 256), lastT := s.nowUs } := by
  have hcount : s.idx + 1#8 = BitVec.ofNat 8 ((s.idx.toNat + 1) % 256) := by bv_omega
  rw [emitSample, bufRead, pollIndex_toNat hl, hcount]

/-- Settles O48: a due poll emits, an early one only clears the strobe, and the emission is read off `emitSample`. -/
theorem schedulerPoll : Obligations.SchedulerPoll := fun _ =>
  ⟨fun hl hdue => (exec_schedPoll_of_due hl hdue).trans (congrArg _ (emitSample_eq hl)), exec_schedPoll_of_early,
    exec_schedPoll_of_illegal⟩

/-! ### No catch-up -/

/-- A Running cycle without a mode press stays in Running (R173, R179). -/
theorem running_cycle_mode {s t : State} {f c d : Bool} {now : BitVec 32} (hm : s.mode = 0#2)
    (h : exec (.cycIterate false f c d now) s = .next t) : t.mode = 0#2 := by
  obtain ⟨s2, hrun, rfl⟩ := exec_cycIterate_inv h
  rw [runMode_running ((sampled_mode c d now s).trans hm), execSchedPoll_next_iff] at hrun
  obtain ⟨_, rfl⟩ := hrun
  rw [applyPresses_mode, merge_none_false, iterationFlags_mode]
  split <;> exact hm

/-- Settles O50: the first cycle leaves the interval and the mode and records its own time t1, which is all that the second
one compares t2 with. -/
theorem noCatchUp : Obligations.NoCatchUp := by
  intro s t u f c d f' c' d' t1 t2 hm ht hwe hu
  have hmode : t.mode = 0#2 := running_cycle_mode hm ht
  obtain ⟨_, hint, _⟩ := (onlyCalculatingWritesTheTable s t false f c d t1 ht).1 (by rw [hm]; decide)
  obtain ⟨_, hemit, _⟩ := samplesOnlyFromRunning s t false f c d t1 ht
  obtain ⟨_, _, hlast⟩ := hemit hwe
  obtain ⟨hdue, _⟩ := samplesOnlyFromRunning t u false f' c' d' t2 hu
  rw [hdue, hint, hlast]
  exact and_iff_right hmode

/-! ### The table index -/

/-- A legal RUN_SC divides the modulus of IDX, so the wrap of IDX is a wrap of the table too (R163). -/
theorem legalSc_dvd_256 {n : Nat} (h : legalSc n = true) : n ∣ 256 := by
  rcases legalSc_cases h with rfl | rfl | rfl | rfl <;> decide

theorem pollIndex_emitSample {s : State} (hl : legalSc s.runSc.toNat = true) :
    (pollIndex (emitSample s)).toNat = ((pollIndex s).toNat + 1) % s.runSc.toNat := by
  have hl' : legalSc (emitSample s).runSc.toNat = true := hl
  calc (pollIndex (emitSample s)).toNat
      = (s.idx.toNat + 1) % 256 % s.runSc.toNat := by
        rw [pollIndex_toNat hl', emitSample_idx, emitSample_runSc, BitVec.toNat_add]; rfl
    _ = (s.idx.toNat + 1) % s.runSc.toNat := Nat.mod_mod_of_dvd _ (legalSc_dvd_256 hl)
    _ = ((pollIndex s).toNat + 1) % s.runSc.toNat := by rw [pollIndex_toNat hl, Nat.mod_add_mod]

/-- Settles O51: a due poll that answers leaves `emitSample s`. -/
theorem indexWrapsWithTheTable : Obligations.IndexWrapsWithTheTable := by
  intro s t h _ hdue
  have hl := legalSc_of_exec_schedPoll h
  obtain rfl : emitSample s = t := by simpa using (exec_schedPoll_of_due hl hdue).symm.trans h
  exact ⟨pollIndex_toNat hl, pollIndex_emitSample hl⟩

end Sys2Proof.Proofs
end

section
/-! PROOFS. The mode state machine of 44_mode_state_machine.md: the cycles without an iteration (R171 to R175), the merge
of the presses and the transition table (R173, R178), the mode operations of Running, Configuring and Invalid (R179 to
R183, R187), the display strobes (R183, R189), the first iteration after reset (R190, R222), and the completion of a run
(R191). -/

namespace Sys2Proof.Proofs

open Sys2Proof Sys2Proof.Machine

/-! ### The cycles without an iteration -/

theorem exec_cycIdle (g : BitVec 34) (s : State) : exec (.cycIdle g) s = .next (pressOnly false false s) := rfl

theorem exec_cycFieldPress (g : BitVec 34) (s : State) :
    exec (.cycFieldPress g) s = .next (pressOnly false true s) := rfl

theorem exec_cycModePress (f : Bool) (g : BitVec 34) (s : State) :
    exec (.cycModePress f g) s = .next (pressOnly true f s) := rfl

/-- The value ports of a cycle without an iteration show the registers as they were, MODE with its press (R175). -/
theorem portsOf_pressOnly (m f : Bool) (s : State) :
    portsOf (pressOnly m f s) =
      { portsOf s with dacWe := false, dispFull := false, dispValues := false, qdStep := 0b00#2
                       mode := (pressOnly m f s).mode } := rfl

/-- Settles O9: each of the three cycles is `pressOnly` with its presses. -/
theorem cyclesWithoutAnIteration : Obligations.CyclesWithoutAnIteration := by
  intro s f g
  refine ⟨?_, ?_, ?_, fun i t hi ht => ?_⟩
  · rw [exec_cycIdle, pressOnly, applyPresses, merge_none_false, merge_none_false]; rfl
  · rw [exec_cycFieldPress, pressOnly, applyPresses, merge_none_false, merge_none_eq (by decide)]; rfl
  · rw [exec_cycModePress, pressOnly, applyPresses, merge_none_eq (by decide), merge_none_eq (by decide)]; rfl
  · simp only [List.mem_cons, List.not_mem_nil, or_false] at hi
    obtain rfl | rfl | rfl := hi <;> cases ht <;> exact portsOf_pressOnly _ _ s

/-- The presses of R171 and R172 as sums of the counters, which wrap at their widths. -/
theorem pressOnly_eq (m f : Bool) (s : State) :
    pressOnly m f s = { clearStrobes s with mode := s.mode + BitVec.ofNat 2 m.toNat
                                            fieldCnt := s.fieldCnt + BitVec.ofNat 4 f.toNat } := by
  cases m <;> cases f <;> rfl

/-- The state that n cycles without an iteration leave, with the same presses in each and then the bundles `rest`. -/
def pressed (n : Nat) (m f : Bool) (rest : List Word) (s : State) : State :=
  { clearStrobes s with mode := s.mode + BitVec.ofNat 2 (n * m.toNat)
                        fieldCnt := s.fieldCnt + BitVec.ofNat 4 (n * f.toNat), stimulus := rest }

/-- One more press is counted on top of the others. -/
theorem pressed_pressOnly (n : Nat) (m f : Bool) (rest ws : List Word) (s : State) :
    pressed n m f rest (pressOnly m f { s with stimulus := ws }) = pressed (n + 1) m f rest s := by
  simp only [pressed, pressOnly_eq, add_mul, one_mul, BitVec.ofNat_add, BitVec.add_assoc,
    add_comm (n * m.toNat), add_comm (n * f.toNat)]
  rfl

/-- A run on one bundle without an iteration, given n + 1 times. -/
theorem run_replicate_press {w : Word} {i : Instr} {m f : Bool} {rest : List Word} (hd : decodeProgramWord w = .ok i)
    (hx : ∀ s, exec i s = .next (pressOnly m f s)) (n : Nat) {s : State}
    (hs : s.stimulus = List.replicate (n + 1) w ++ rest) :
    run (n + 1) s = .next (pressed (n + 1) m f rest s) := by
  have hstep : step s = .next (pressOnly m f { s with stimulus := List.replicate n w ++ rest }) :=
    (step_eq_exec hs hd).trans (hx _)
  rw [run_of_next hstep, ← pressed_pressOnly n m f rest (List.replicate n w ++ rest)]
  cases n with
  | zero => simp [run, pressed, pressOnly_eq]
  | succ n => exact run_replicate_press hd hx n rfl

/-- Settles O14: four mode presses add 4 to a counter of 2 bits, sixteen field presses 16 to one of 4 bits. -/
theorem pressesCountModuloTheirRange : Obligations.PressesCountModuloTheirRange := by
  intro s rest
  constructor
  · intro hs
    rw [run_replicate_press (i := .cycModePress false 0#34) rfl (exec_cycModePress false 0#34) 3 hs]
    simp [pressed, clearStrobes]
  · intro hs
    rw [run_replicate_press (i := .cycFieldPress 0#34) rfl (exec_cycFieldPress 0#34) 15 hs]
    simp [pressed, clearStrobes]

/-! ### The Running and the Invalid iteration -/

/-- All that a poll can write (R160, R179). -/
theorem exec_schedPoll_frame {s t : State} (h : exec .schedPoll s = .next t) :
    t = { s with dacCode := t.dacCode, dacWe := t.dacWe, idx := t.idx, lastT := t.lastT } := by
  obtain ⟨_, rfl⟩ := execSchedPoll_next_iff.mp h
  split <;> rfl

/-- Settles O28: the Running operation is the poll, which needs a legal RUN_SC alone. -/
theorem runningAndInvalidIterations : Obligations.RunningAndInvalidIterations := by
  refine fun s => ⟨rfl, rfl, fun hl => ?_⟩
  have hpoll := execSchedPoll_next_iff.mpr ⟨hl, rfl⟩
  exact ⟨_, hpoll, exec_schedPoll_frame hpoll⟩

/-! ### The counters and the transition table -/

/-- The mode that an iteration leaves, before the presses of its cycle (R178, R185, R187). -/
def modeLeft (v : BitVec 2) : BitVec 2 := if v = 2#2 then 0#2 else if v = 3#2 then 2#2 else v

theorem runMode_mode {s s2 : State} (h : runMode s = .next s2) : s2.mode = modeLeft s.mode := by
  obtain ⟨hm, _, rfl⟩ | ⟨hm, p, q, _, _, rfl⟩ | ⟨hm, q, _, rfl⟩ | ⟨hm, rfl⟩ := runMode_inv h
  · split <;> exact hm.trans (congrArg modeLeft hm).symm
  · exact (configDisplay_mode _).trans (hm.trans (congrArg modeLeft hm).symm)
  · exact (congrArg modeLeft hm).symm
  · exact (congrArg modeLeft hm).symm

/-- FIELD_CNT after a mode operation: Calculating clears it, Configuring leaves the cursor in it (R181, R185). -/
theorem runMode_fieldCnt {s s2 : State} (h : runMode s = .next s2) :
    s2.fieldCnt = if s.mode = 2#2 then 0#4 else if s.mode = 1#2 then (deriveCursor s.fieldCnt s.kind).1
      else s.fieldCnt := by
  obtain ⟨hm, _, rfl⟩ | ⟨hm, p, q, _, _, rfl⟩ | ⟨hm, q, _, rfl⟩ | ⟨hm, rfl⟩ := runMode_inv h
  · rw [hm]; split <;> rfl
  · rw [configDisplay_fieldCnt, hm]; rfl
  · rw [hm]; rfl
  · rw [hm]; rfl

/-- The derived cursor as a number: the counter modulo 10, with 1 redirected to 6 under DC (R123, R181). -/
theorem deriveCursor_toNat (fc : BitVec 4) (kind : BitVec 2) :
    (deriveCursor fc kind).1.toNat = if kind = 3#2 ∧ fc.toNat % 10 = 1 then 6 else fc.toNat % 10 := by
  have hmod : (fc % 10#4).toNat = fc.toNat % 10 := BitVec.toNat_umod
  have hone : fc % 10#4 = 1#4 ↔ fc.toNat % 10 = 1 := by rw [← hmod, ← BitVec.toNat_inj]; rfl
  simp only [deriveCursor_fst, redirect, hone, apply_ite BitVec.toNat, hmod]
  rfl

/-- MODE after an iterating cycle is what the iteration leaves, with the press (R173). -/
theorem cycIterate_mode {s t : State} {m f c d : Bool} {now : BitVec 32}
    (h : exec (.cycIterate m f c d now) s = .next t) : t.mode = merge (modeLeft s.mode) none m := by
  obtain ⟨s2, hrun, rfl⟩ := exec_cycIterate_inv h
  rw [applyPresses_mode, iterationFlags_mode, runMode_mode hrun, sampled_mode]

/-- Settles O12: the mode operation writes or leaves the counters, and the presses are merged after it. -/
theorem pressesMergeWithIterationWrites : Obligations.PressesMergeWithIterationWrites := by
  intro s t m f c d now h
  constructor
  · rw [cycIterate_mode h, merge_toNat (by decide), Option.getD_none, modeLeft, apply_ite BitVec.toNat,
      apply_ite BitVec.toNat]
    rfl
  · obtain ⟨s2, hrun, rfl⟩ := exec_cycIterate_inv h
    rw [applyPresses_fieldCnt, iterationFlags_fieldCnt, merge_toNat (by decide), Option.getD_none,
      runMode_fieldCnt hrun, apply_ite BitVec.toNat, apply_ite BitVec.toNat, deriveCursor_toNat]
    rfl

/-- From the invariant an iterating cycle answers, whatever its inputs. -/
theorem exec_cycIterate_ok {s : State} (hi : Inv s) (m f c d : Bool) (now : BitVec 32) :
    ∃ t, exec (.cycIterate m f c d now) s = .next t :=
  exec_cycle_ok hi (decodeOfEncodeIsTheInstruction (.cycIterate m f c d now))

/-- Settles O13: the rows of R178 are `modeLeft` with or without a press, and the counter alone where nothing iterates. -/
theorem modeTransitionTable : Obligations.ModeTransitionTable := by
  intro s f c d now g hi
  obtain ⟨t0, h0⟩ := exec_cycIterate_ok hi false f c d now
  obtain ⟨t1, h1⟩ := exec_cycIterate_ok hi true f c d now
  refine ⟨t0, t1, pressOnly true f s, h0, h1, exec_cycModePress f g s, ?_⟩
  rw [cycIterate_mode h0, cycIterate_mode h1, pressOnly_eq]
  refine ⟨fun hm => ?_, fun hm => ?_, fun hm => ?_, fun hm => ?_⟩ <;> rw [hm] <;> exact ⟨rfl, rfl, rfl⟩

/-! ### The Configuring iteration -/

/-- All that a Configuring operation writes, the display cadence included (R180 to R183). -/
theorem exec_iterConfiguring_frame {s t : State} (h : exec .iterConfiguring s = .next t) :
    t = { s with editCursor := t.editCursor, fieldCnt := t.fieldCnt, kind := t.kind, freq := t.freq, amp := t.amp
                 offs := t.offs, sc := t.sc, dispFull := t.dispFull, dispValues := t.dispValues
                 lastDispT := t.lastDispT } := by
  obtain ⟨p, q, _, _, rfl⟩ := execIterConfiguring_next_iff.mp h
  conv_lhs => rw [configDisplay_eq]
  simp [withParams]

/-- Settles O29: the edit of the derived cursor answers on a legal count, and so does the saturation pass after it. -/
theorem configuringIteration : Obligations.ConfiguringIteration := by
  intro s hr
  have hc := deriveCursor_le s.fieldCnt s.kind
  obtain ⟨_, p, q, _, hp, hq, _⟩ := edit_then_saturate hr hc
  have hconf := execIterConfiguring_next_iff.mpr ⟨p, q, hp, hq, rfl⟩
  refine ⟨_, p, q, hconf, ?_, ?_, ?_, hq, ?_, ?_, ?_, ?_, ?_, exec_iterConfiguring_frame hconf⟩
  · rw [configDisplay_editCursor]; exact deriveCursor_toNat _ _
  · rw [configDisplay_fieldCnt, configDisplay_editCursor]
  · rwa [configDisplay_editCursor]
  · rw [paramsOf_configDisplay]; exact (paramsOf_sat hq s).1
  · rw [configDisplay_eq]; exact inRange_of_sat hq rfl
  · exact configDisplay_dispFull _
  · exact configDisplay_dispValues _
  · exact configDisplay_lastDispT _

/-! ### The display strobes -/

/-- Outside Configuring a mode operation leaves the display (R183, R189). -/
theorem runMode_keeps_display {s s2 : State} (h : runMode s = .next s2) (hm : s.mode ≠ 1#2) :
    s2.dispFull = s.dispFull ∧ s2.dispValues = s.dispValues ∧ s2.lastDispT = s.lastDispT := by
  obtain ⟨_, _, rfl⟩ | ⟨hc, _⟩ | ⟨_, q, _, rfl⟩ | ⟨_, rfl⟩ := runMode_inv h
  · split <;> exact ⟨rfl, rfl, rfl⟩
  · exact absurd hc hm
  · exact ⟨rfl, rfl, rfl⟩
  · exact ⟨rfl, rfl, rfl⟩

/-- In Configuring a mode operation runs the display cadence on the flag and the times that it finds (R183). -/
theorem runMode_configuring_display {s s2 : State} (h : runMode s = .next s2) (hm : s.mode = 1#2) :
    s2.dispFull = (s.dispFull || !s.cfgPrev) ∧
    s2.dispValues = (s.dispValues || (s.cfgPrev && decide (500000 ≤ (s.nowUs - s.lastDispT).toNat))) ∧
    s2.lastDispT =
      (if s.cfgPrev = false ∨ 500000 ≤ (s.nowUs - s.lastDispT).toNat then s.nowUs else s.lastDispT) := by
  rw [runMode_configuring hm, execIterConfiguring_next_iff] at h
  obtain ⟨p, q, _, _, rfl⟩ := h
  exact ⟨configDisplay_dispFull _, configDisplay_dispValues _, configDisplay_lastDispT _⟩

/-- Settles O37: the cycle starts with the strobes at 0, only Configuring sets them, and the first iteration adds the
startup redraw. -/
theorem displayStrobes : Obligations.DisplayStrobes := by
  intro s t m f c d now h
  obtain ⟨s2, hrun, rfl⟩ := exec_cycIterate_inv h
  have hfull : (applyPresses m f (iterationFlags s s2)).dispFull = (!s.started || s2.dispFull) := rfl
  rw [hfull, applyPresses_dispValues, iterationFlags_dispValues, applyPresses_lastDispT, iterationFlags_lastDispT]
  by_cases hm : s.mode = 1#2
  · obtain ⟨h1, h2, h3⟩ := runMode_configuring_display hrun ((sampled_mode c d now s).trans hm)
    rw [h1, h2, h3]
    simp [sampled, hm]
  · obtain ⟨h1, h2, h3⟩ := runMode_keeps_display hrun hm
    rw [h1, h2, h3]
    simp [sampled, hm]

/-! ### The first iteration after reset -/

/-- An iterating cycle in Calculating on parameters in their valid range: the saturation pass keeps them, so the table and
its interval are made of the registers as they are (R128, R185). -/
theorem exec_cycIterate_calculating {s : State} (hm : s.mode = 2#2) (hr : ParamsInRange s) (m f c d : Bool)
    (now : BitVec 32) :
    exec (.cycIterate m f c d now) s =
      .next (applyPresses m f (iterationFlags s (calculated (paramsOf s) (sampled c d now s)))) := by
  have hr' : ParamsInRange (sampled c d now s) := hr
  have hcalc : runMode (sampled c d now s) = .next (calculated (paramsOf s) (sampled c d now s)) := by
    rw [runMode_calculating ((sampled_mode c d now s).trans hm)]
    exact execIterCalculating_next_iff.mpr ⟨_, sat_of_inRange hr', rfl⟩
  exact (execCycIterate_eq m f c d now s).trans (by rw [hcalc, andThen_next])

/-- Settles O36: reset leaves Calculating and the initial parameters, which are in their valid range. -/
theorem firstIterationAfterReset : Obligations.FirstIterationAfterReset := by
  intro b c d now
  have hr := resetWith_paramsInRange b
  have hsat := sat_of_inRange hr
  have hcyc := exec_cycIterate_calculating rfl hr false false c d now
  rw [paramsOf_resetWith] at hsat hcyc
  have hread := calculated_read (s := sampled c d now (State.resetWith b)) hsat rfl
  have hlen := calculated_runSc hsat (sampled c d now (State.resetWith b))
  exact ⟨_, hcyc, rfl, rfl, rfl, rfl, rfl, fun i hi => (hread i).trans (if_pos hi), rfl, hlen, rfl, rfl⟩

/-! ### The completion of a run -/

/-- Settles O59, by induction on the bundles: each step answers, uses up its bundle and keeps the invariant. -/
theorem runsCompleteOnInputBundles : Obligations.RunsCompleteOnInputBundles := by
  intro s ws rest hi hs hws
  induction ws generalizing s with
  | nil => exact ⟨s, rfl, hs, hi⟩
  | cons w ws ih =>
    obtain ⟨hw, hws'⟩ := List.forall_mem_cons.mp hws
    obtain ⟨_, hprogress⟩ := stepMeetsNoModelFault s hi
    obtain ⟨s', hstep, hs', hi'⟩ := hprogress w (ws ++ rest) hs hw
    rw [List.length_cons, run_of_next hstep]
    exact ih s' hi' hs' hws'

end Sys2Proof.Proofs
end

section
/-! PROOFS. The exceptions of 60_exceptions.md: a run meets none of the model faults (R205), whatever its input bundles. -/

namespace Sys2Proof.Proofs

open Sys2Proof Sys2Proof.Machine

/-- A run from the invariant stops only by a refusal, which is no fault: its first cycle does not fault (O56), and the
state which that cycle leaves satisfies the invariant again (O55). -/
theorem safeFor_of_inv {n : Nat} {s : State} (hi : Inv s) : SafeFor n s := by
  induction n generalizing s with
  | zero => exact fun _ h => nomatch h
  | succ n ih =>
    intro f h
    obtain ⟨hnofault, _⟩ := stepMeetsNoModelFault s hi
    obtain hfault | ⟨s', hstep, hrest⟩ := run_fault_iff.mp h
    · exact hnofault f hfault
    · exact ih (stepKeepsTheInvariant s s' hi hstep) f hrest

/-- Settles O57: the reset state of a legal set satisfies the invariant, which does not speak of the bundles to come. -/
theorem noRunMeetsAModelFault : Obligations.NoRunMeetsAModelFault := by
  intro b ws n
  have hi : Inv { State.resetWith b with stimulus := ws } := resetWith_inv b
  exact safeFor_of_inv hi

end Sys2Proof.Proofs
end

section
/-! PROOFS. The reset cycle of 70_reset_and_hazards.md (R220, R221). -/

namespace Sys2Proof.Proofs

open Sys2Proof Sys2Proof.Machine

/-- A bundle with RST set resets the block: of the state it keeps the build parameters and the bundles behind it, and of
the bundle it reads no other input (R220, R221, R223). -/
theorem step_of_rst {s : State} {w : Word} {rest : List Word} (hs : s.stimulus = w :: rest) (hw : w.toNat < 2 ^ 38)
    (hrst : w.getLsbD 37 = true) : step s = .next { State.resetWith s.build with stimulus := rest } := by
  have hd : decodeProgramWord w = .ok (.cycReset (w.extractLsb' 0 37)) :=
    (decode_in38 hw).trans (congrArg _ (decodeIn38_reset hrst))
  exact step_eq_exec hs hd

/-- Settles O8: both steps answer the reset state of the same parameter set, in front of the same bundles. -/
theorem resetIgnoresInputsAndState : Obligations.ResetIgnoresInputsAndState := by
  intro s s' w w' rest hbuild hs hs' hw hw' hrst hrst'
  have h := step_of_rst hs hw hrst
  have h' := step_of_rst hs' hw' hrst'
  exact ⟨by rw [h, h', hbuild], _, h⟩

end Sys2Proof.Proofs
end
